-- ==== Sys2Proof/Word.lean ====
section
/-! DEFINITION. The word types of the core: every register, command and sample is one 32-bit word (rules R8, R10, R24, R63). -/

namespace Sys2Proof

/-- A 32-bit word: a register, a command word, a `U32` operand (rules R10, R24). -/
abbrev Word := BitVec 32

/-- A binary32 datum as its 32 bits: sign bit 31, exponent bits 30:23, fraction bits 22:0 (rules R8, R10).
`f32(w)` and `bits(v)` of the spec are the identity on these bits. -/
abbrev F32 := BitVec 32

/-- `+0.0` (rule R10). -/
abbrev fZero : F32 := 0x00000000#32
/-- `1.0` (rule R135). -/
abbrev fOne : F32 := 0x3F800000#32
/-- `-1.0` (rule R10). -/
abbrev fNegOne : F32 := 0xBF800000#32
/-- `0.5` (rule R135). -/
abbrev fHalf : F32 := 0x3F000000#32
/-- `2.0` (rule R135). -/
abbrev fTwo : F32 := 0x40000000#32
/-- `PI32` (rule R135). -/
abbrev fPi : F32 := 0x40490FDB#32
/-- `TWO_PI32` (rule R135). -/
abbrev fTwoPi : F32 := 0x40C90FDB#32

end Sys2Proof
end

