-- ==== Sys2Proof/Config.lean ====
section
/-! DEFINITION. The configuration record of an instance of the core (rules R7, R46) and the free values. -/

namespace Sys2Proof

/-- The waveforms, in the order of their codes 0, 1, 2 (rule R43); code 3 is not a waveform. -/
inductive Waveform where
  | sine
  | saw
  | square
  deriving DecidableEq, Repr

/-- `FILTER_RANGE`: what `V.RENDER` filters after an early exit (rules R7, R226). -/
inductive FilterRange where
  | full
  | written
  deriving DecidableEq, Repr

/-- The choice of one field of the numerics record `NUM` (rules R7, R128 to R133).
`spec` is the default the spec gives; `other k` is some other function, of which nothing is known
(assumption 4), so a claim about every configuration is a claim about every `NUM`. Which records are admissible
(rule R133) says `Machine.NumOk`. -/
inductive NumChoice where
  | spec
  | other (k : Nat)
  deriving DecidableEq, Repr

/-- The coefficient set `(g, R2, h)` of the filter (rule R131). -/
structure Coef where
  g  : F32
  r2 : F32
  h  : F32
  deriving DecidableEq, Repr, Inhabited

/-- The configuration record of rule R7, fixed for an instance (rule R46). -/
structure Config where
  /-- `NVOICES` -/
  nvoices     : Nat
  /-- `CAP_BLOCK` -/
  capBlock    : Nat
  /-- `CAP_CHAN` -/
  capChan     : Nat
  /-- `EVQ_CAP` -/
  evqCap      : Nat
  /-- `DEFAULT_WAVE` -/
  defaultWave : Waveform
  /-- `FILTER_RANGE` -/
  filterRange : FilterRange
  /-- `FTZ` -/
  ftz         : Bool
  /-- `NUM.SIN2PI` -/
  numSin      : NumChoice
  /-- `NUM.NOTEFREQ` -/
  numFreq     : NumChoice
  /-- `NUM.TAN32` -/
  numTan      : NumChoice
  /-- `NUM.SVF_COEF` -/
  numCoef     : NumChoice
  /-- `NUM.SVF_STEP` -/
  numStep     : NumChoice
  deriving DecidableEq, Repr

/-- The ranges of the table of rule R7. -/
def Config.wf (c : Config) : Bool :=
  decide (1 ≤ c.nvoices) && decide (c.nvoices ≤ 256)
  && decide (1 ≤ c.capBlock) && decide (c.capBlock ≤ 2 ^ 24)
  && decide (1 ≤ c.capChan) && decide (c.capChan ≤ 256)
  && decide (1 ≤ c.evqCap) && decide (c.evqCap ≤ 65535)

/-- The default instance: the column "default" of the table of rule R7. -/
def Config.default : Config where
  nvoices := 8
  capBlock := 1024
  capChan := 2
  evqCap := 64
  defaultWave := .sine
  filterRange := .full
  ftz := false
  numSin := .spec
  numFreq := .spec
  numTan := .spec
  numCoef := .spec
  numStep := .spec

/-- FREE VALUE (assumption 3): the bits from which an operation that must return a NaN draws its sign and
payload (rule R125, U7). The argument names the draw; no two draws of a run share it. -/
opaque Config.freeNaN : List Nat → F32

/-- FREE VALUE (assumption 2): the oscillator increment after a frequency or a sample rate that is not a
finite positive number (rule R157 (a), U1: "undefined increment"). The argument names the draw. -/
opaque Config.freeInc : List Nat → F32

/-- A `SIN2PI` other than the default (rule R128, U11; assumption 4). -/
opaque Config.otherSin2pi : Nat → F32 → F32

/-- A `NOTEFREQ` other than the default (rule R129, U11; assumption 4). -/
opaque Config.otherNotefreq : Nat → BitVec 7 → F32

/-- A `TAN32` other than the default (rule R130, U11; assumption 4). -/
opaque Config.otherTan32 : Nat → F32 → F32

/-- An `SVF_COEF` other than the default (rule R131, U11; assumption 4). -/
opaque Config.otherSvfCoef : Nat → F32 → F32 → F32 → Coef

/-- An `SVF_STEP` other than the default: `(y, s1', s2')` (rule R132, U11; assumption 4). -/
opaque Config.otherSvfStep : Nat → Coef → F32 → F32 → F32 → F32 × F32 × F32

end Sys2Proof
end

