-- ==== Sys2Proof/Syntax.lean ====
section
/-! DEFINITION. The command set: one constructor per row of spec/opcode_table.json (rule R92), its operands the fields of the
command word (rules R90, R93). Operands in `A0..A3` are no part of a command word (rule R94). -/

namespace Sys2Proof

/-- The `TYPE` bit of `P.EVENT` and of an event record (rules R93, R103). -/
inductive EventKind where
  | noteOn
  | noteOff
  deriving DecidableEq, Repr

/-- A command. `v` is `VIDX`, the Voice index; `tail` is `TAILOFF` (rule R93). -/
inductive Instr where
  | sysReset
  | oscSetwave (v : BitVec 8) (wsel : BitVec 2)
  | oscSetfreq (v : BitVec 8)
  | oscSetsr (v : BitVec 8)
  | oscReset (v : BitVec 8)
  | oscNext (v : BitVec 8)
  | envNoteon (v : BitVec 8)
  | envNoteoff (v : BitVec 8)
  | envNext (v : BitVec 8)
  | envSetparams (v : BitVec 8)
  | envSetsr (v : BitVec 8)
  | envIsactive (v : BitVec 8)
  | envGetlevel (v : BitVec 8)
  | envGetstage (v : BitVec 8)
  | fltPrepare (v : BitVec 8)
  | fltReset (v : BitVec 8)
  | fltSetcutoff (v : BitVec 8)
  | fltSetres (v : BitVec 8)
  | fltProcess (v : BitVec 8)
  | vPrepare (v : BitVec 8)
  | vStart (v : BitVec 8) (note : BitVec 7)
  | vStop (v : BitVec 8) (tail : Bool)
  | vRender (v : BitVec 8)
  | vUpdosc (v : BitVec 8) (widx : BitVec 16)
  | vUpdflt (v : BitVec 8)
  | vUpdadsr (v : BitVec 8)
  | vQuery (v : BitVec 8)
  | pPrepare
  | pNoteon (note : BitVec 7)
  | pNoteoff (note : BitVec 7) (tail : Bool)
  | pRender
  | pEvent (kind : EventKind) (note : BitVec 7) (tail : Bool)
  deriving DecidableEq, Repr

/-- The Voice index a command names, if its format is `U` or `UI` (rules R90, R91). -/
def Instr.voice? : Instr → Option (BitVec 8)
  | .sysReset => none
  | .oscSetwave v _ => some v
  | .oscSetfreq v => some v
  | .oscSetsr v => some v
  | .oscReset v => some v
  | .oscNext v => some v
  | .envNoteon v => some v
  | .envNoteoff v => some v
  | .envNext v => some v
  | .envSetparams v => some v
  | .envSetsr v => some v
  | .envIsactive v => some v
  | .envGetlevel v => some v
  | .envGetstage v => some v
  | .fltPrepare v => some v
  | .fltReset v => some v
  | .fltSetcutoff v => some v
  | .fltSetres v => some v
  | .fltProcess v => some v
  | .vPrepare v => some v
  | .vStart v _ => some v
  | .vStop v _ => some v
  | .vRender v => some v
  | .vUpdosc v _ => some v
  | .vUpdflt v => some v
  | .vUpdadsr v => some v
  | .vQuery v => some v
  | .pPrepare => none
  | .pNoteon _ => none
  | .pNoteoff _ _ => none
  | .pRender => none
  | .pEvent _ _ _ => none

end Sys2Proof
end

