-- ==== Sys2Proof/WellFormed.lean ====
section
/-! DEFINITION. When a command's own fields are legal on an instance: the checks 2 and 3 of rule R96. Every term of `Instr` has an
encoding; one that fails here is a legal word whose execution raises `BadOperand` (rules R96, R97). -/

namespace Sys2Proof

/-- Check 2 of rule R96: the Voice named exists. -/
def Instr.voiceOk (c : Config) (i : Instr) : Bool :=
  match i.voice? with
  | some v => decide (v.toNat < c.nvoices)
  | none => true

/-- Check 3 of rule R96: `WSEL` of `OSC.SETWAVE` is one of the three waveforms. -/
def Instr.wselOk : Instr → Bool
  | .oscSetwave _ wsel => wsel != 3#2
  | _ => true

/-- The fields of the command word are legal on the instance. -/
def Instr.wf (c : Config) (i : Instr) : Bool := i.voiceOk c && i.wselOk

end Sys2Proof
end

