-- ==== Sys2Proof/Decode.lean ====
section
/-! DEFINITION. The command word: its fields (rule R90), the opcode table (rule R92), the decoder (step 1 of rule R96, rule R97), and
the encoder written from the same table. -/

namespace Sys2Proof

/-- `OPC = w[31:24]` (rule R90). -/
def opcField (w : Word) : BitVec 8 := w.extractLsb' 24 8

/-- `UNIT = w[31:28]` (rule R90). -/
def unitField (w : Word) : BitVec 4 := w.extractLsb' 28 4

/-- `VIDX = w[23:16]` (rule R90). -/
def vidxField (w : Word) : BitVec 8 := w.extractLsb' 16 8

/-- `IMM = w[15:0]` (rule R90). -/
def immField (w : Word) : BitVec 16 := w.extractLsb' 0 16

/-- `NOTE = IMM[6:0]` (rule R93). -/
def noteField (w : Word) : BitVec 7 := w.extractLsb' 0 7

/-- `WSEL = IMM[1:0]` (rule R93). -/
def wselField (w : Word) : BitVec 2 := w.extractLsb' 0 2

/-- Why a word spells no command (rule R97). -/
inductive Illegal where
  /-- `UNIT` is 6..15 -/
  | unassignedUnit
  /-- `UNIT` is 0..5 and `FN` is not assigned in it -/
  | unassignedFn
  /-- a `G` or `GI` command with `VIDX` not 0 -/
  | vidxNotZero
  /-- a must-be-zero bit of `IMM` is 1 -/
  | immNotZero
  deriving DecidableEq, Repr

/-- Formats `U` and `UI`: the bits `mbz` of `IMM` must be zero (rules R91, R93). -/
def decodeUnit (w : Word) (mbz : BitVec 16) (i : Instr) : Except Illegal Instr :=
  if immField w &&& mbz = 0#16 then .ok i else .error .immNotZero

/-- Formats `G` and `GI`: `VIDX` and the bits `mbz` of `IMM` must be zero (rules R91, R93). -/
def decodeGlobal (w : Word) (mbz : BitVec 16) (i : Instr) : Except Illegal Instr :=
  if vidxField w = 0#8 then decodeUnit w mbz i else .error .vidxNotZero

/-- `TYPE` of `P.EVENT`: bit 9 of `IMM`, 1 = NoteOn (rule R93). -/
def kindField (w : Word) : EventKind := if w.getLsbD 9 then .noteOn else .noteOff

/-- The command a word spells, or why it spells none: total, and the same in every state (rules R96 to R99). -/
def decode (w : Word) : Except Illegal Instr :=
  let v := vidxField w
  match (opcField w).toNat with
  | 0x01 => decodeGlobal w 0xFFFF#16 .sysReset
  | 0x10 => decodeUnit w 0xFFFC#16 (.oscSetwave v (wselField w))
  | 0x11 => decodeUnit w 0xFFFF#16 (.oscSetfreq v)
  | 0x12 => decodeUnit w 0xFFFF#16 (.oscSetsr v)
  | 0x13 => decodeUnit w 0xFFFF#16 (.oscReset v)
  | 0x14 => decodeUnit w 0xFFFF#16 (.oscNext v)
  | 0x20 => decodeUnit w 0xFFFF#16 (.envNoteon v)
  | 0x21 => decodeUnit w 0xFFFF#16 (.envNoteoff v)
  | 0x22 => decodeUnit w 0xFFFF#16 (.envNext v)
  | 0x23 => decodeUnit w 0xFFFF#16 (.envSetparams v)
  | 0x24 => decodeUnit w 0xFFFF#16 (.envSetsr v)
  | 0x25 => decodeUnit w 0xFFFF#16 (.envIsactive v)
  | 0x26 => decodeUnit w 0xFFFF#16 (.envGetlevel v)
  | 0x27 => decodeUnit w 0xFFFF#16 (.envGetstage v)
  | 0x30 => decodeUnit w 0xFFFF#16 (.fltPrepare v)
  | 0x31 => decodeUnit w 0xFFFF#16 (.fltReset v)
  | 0x32 => decodeUnit w 0xFFFF#16 (.fltSetcutoff v)
  | 0x33 => decodeUnit w 0xFFFF#16 (.fltSetres v)
  | 0x34 => decodeUnit w 0xFFFF#16 (.fltProcess v)
  | 0x40 => decodeUnit w 0xFFFF#16 (.vPrepare v)
  | 0x41 => decodeUnit w 0xFF80#16 (.vStart v (noteField w))
  | 0x42 => decodeUnit w 0xFFFE#16 (.vStop v (w.getLsbD 0))
  | 0x43 => decodeUnit w 0xFFFF#16 (.vRender v)
  | 0x44 => decodeUnit w 0x0000#16 (.vUpdosc v (immField w))
  | 0x45 => decodeUnit w 0xFFFF#16 (.vUpdflt v)
  | 0x46 => decodeUnit w 0xFFFF#16 (.vUpdadsr v)
  | 0x47 => decodeUnit w 0xFFFF#16 (.vQuery v)
  | 0x50 => decodeGlobal w 0xFFFF#16 .pPrepare
  | 0x51 => decodeGlobal w 0xFF80#16 (.pNoteon (noteField w))
  | 0x52 => decodeGlobal w 0xFE80#16 (.pNoteoff (noteField w) (w.getLsbD 8))
  | 0x53 => decodeGlobal w 0xFFFF#16 .pRender
  | 0x54 => decodeGlobal w 0xFC80#16 (.pEvent (kindField w) (noteField w) (w.getLsbD 8))
  | _ => if (unitField w).toNat < 6 then .error .unassignedFn else .error .unassignedUnit

/-- The decoder on a word numbered as spec/opcode_table.json numbers it; every command is one 32-bit word (rule R99). -/
def decodeTableWord (nbits w : Nat) : Option Instr :=
  if nbits ≤ 32 then
    match decode (BitVec.ofNat 32 (w % 2 ^ nbits)) with
    | .ok i => some i
    | .error _ => none
  else none

/-- A command word from its three fields (rule R90). -/
def commandWord (opc vidx : BitVec 8) (imm : BitVec 16) : Word := opc ++ vidx ++ imm

/-- An immediate that carries `NOTE` in its bits 6:0 and the bits `hi` above bit 7 (rule R93). -/
def noteImm (hi : BitVec 8) (note : BitVec 7) : BitVec 16 := hi ++ 0#1 ++ note

/-- The word of a command (rules R90, R92, R93). -/
def encode : Instr → Word
  | .sysReset => commandWord 0x01#8 0#8 0#16
  | .oscSetwave v wsel => commandWord 0x10#8 v (0#14 ++ wsel)
  | .oscSetfreq v => commandWord 0x11#8 v 0#16
  | .oscSetsr v => commandWord 0x12#8 v 0#16
  | .oscReset v => commandWord 0x13#8 v 0#16
  | .oscNext v => commandWord 0x14#8 v 0#16
  | .envNoteon v => commandWord 0x20#8 v 0#16
  | .envNoteoff v => commandWord 0x21#8 v 0#16
  | .envNext v => commandWord 0x22#8 v 0#16
  | .envSetparams v => commandWord 0x23#8 v 0#16
  | .envSetsr v => commandWord 0x24#8 v 0#16
  | .envIsactive v => commandWord 0x25#8 v 0#16
  | .envGetlevel v => commandWord 0x26#8 v 0#16
  | .envGetstage v => commandWord 0x27#8 v 0#16
  | .fltPrepare v => commandWord 0x30#8 v 0#16
  | .fltReset v => commandWord 0x31#8 v 0#16
  | .fltSetcutoff v => commandWord 0x32#8 v 0#16
  | .fltSetres v => commandWord 0x33#8 v 0#16
  | .fltProcess v => commandWord 0x34#8 v 0#16
  | .vPrepare v => commandWord 0x40#8 v 0#16
  | .vStart v note => commandWord 0x41#8 v (noteImm 0#8 note)
  | .vStop v tail => commandWord 0x42#8 v (0#15 ++ BitVec.ofBool tail)
  | .vRender v => commandWord 0x43#8 v 0#16
  | .vUpdosc v widx => commandWord 0x44#8 v widx
  | .vUpdflt v => commandWord 0x45#8 v 0#16
  | .vUpdadsr v => commandWord 0x46#8 v 0#16
  | .vQuery v => commandWord 0x47#8 v 0#16
  | .pPrepare => commandWord 0x50#8 0#8 0#16
  | .pNoteon note => commandWord 0x51#8 0#8 (noteImm 0#8 note)
  | .pNoteoff note tail => commandWord 0x52#8 0#8 (noteImm (0#7 ++ BitVec.ofBool tail) note)
  | .pRender => commandWord 0x53#8 0#8 0#16
  | .pEvent kind note tail =>
    commandWord 0x54#8 0#8
      (noteImm (0#6 ++ BitVec.ofBool (decide (kind = .noteOn)) ++ BitVec.ofBool tail) note)

/-- The four format names (rule R91). -/
inductive Format where
  | u
  | ui
  | g
  | gi
  deriving DecidableEq, Repr

/-- A row of the opcode map: a word spells the command exactly when `(w & mask) = match` (rule R92). -/
structure OpcodeRow where
  mnemonic : String
  format   : Format
  pattern  : Word
  mask     : Word
  deriving DecidableEq, Repr

/-- The rows of the units SYS, OSC and ENV (rule R92). -/
def opcodeRowsLow : List OpcodeRow := [
  ⟨"SYS.RESET", .g, 0x01000000#32, 0xFFFFFFFF#32⟩,
  ⟨"OSC.SETWAVE", .ui, 0x10000000#32, 0xFF00FFFC#32⟩,
  ⟨"OSC.SETFREQ", .u, 0x11000000#32, 0xFF00FFFF#32⟩,
  ⟨"OSC.SETSR", .u, 0x12000000#32, 0xFF00FFFF#32⟩,
  ⟨"OSC.RESET", .u, 0x13000000#32, 0xFF00FFFF#32⟩,
  ⟨"OSC.NEXT", .u, 0x14000000#32, 0xFF00FFFF#32⟩,
  ⟨"ENV.NOTEON", .u, 0x20000000#32, 0xFF00FFFF#32⟩,
  ⟨"ENV.NOTEOFF", .u, 0x21000000#32, 0xFF00FFFF#32⟩,
  ⟨"ENV.NEXT", .u, 0x22000000#32, 0xFF00FFFF#32⟩,
  ⟨"ENV.SETPARAMS", .u, 0x23000000#32, 0xFF00FFFF#32⟩,
  ⟨"ENV.SETSR", .u, 0x24000000#32, 0xFF00FFFF#32⟩,
  ⟨"ENV.ISACTIVE", .u, 0x25000000#32, 0xFF00FFFF#32⟩,
  ⟨"ENV.GETLEVEL", .u, 0x26000000#32, 0xFF00FFFF#32⟩,
  ⟨"ENV.GETSTAGE", .u, 0x27000000#32, 0xFF00FFFF#32⟩]

/-- The rows of the units FLT, V and P (rule R92). -/
def opcodeRowsHigh : List OpcodeRow := [
  ⟨"FLT.PREPARE", .u, 0x30000000#32, 0xFF00FFFF#32⟩,
  ⟨"FLT.RESET", .u, 0x31000000#32, 0xFF00FFFF#32⟩,
  ⟨"FLT.SETCUTOFF", .u, 0x32000000#32, 0xFF00FFFF#32⟩,
  ⟨"FLT.SETRES", .u, 0x33000000#32, 0xFF00FFFF#32⟩,
  ⟨"FLT.PROCESS", .u, 0x34000000#32, 0xFF00FFFF#32⟩,
  ⟨"V.PREPARE", .u, 0x40000000#32, 0xFF00FFFF#32⟩,
  ⟨"V.START", .ui, 0x41000000#32, 0xFF00FF80#32⟩,
  ⟨"V.STOP", .ui, 0x42000000#32, 0xFF00FFFE#32⟩,
  ⟨"V.RENDER", .u, 0x43000000#32, 0xFF00FFFF#32⟩,
  ⟨"V.UPDOSC", .ui, 0x44000000#32, 0xFF000000#32⟩,
  ⟨"V.UPDFLT", .u, 0x45000000#32, 0xFF00FFFF#32⟩,
  ⟨"V.UPDADSR", .u, 0x46000000#32, 0xFF00FFFF#32⟩,
  ⟨"V.QUERY", .u, 0x47000000#32, 0xFF00FFFF#32⟩,
  ⟨"P.PREPARE", .g, 0x50000000#32, 0xFFFFFFFF#32⟩,
  ⟨"P.NOTEON", .gi, 0x51000000#32, 0xFFFFFF80#32⟩,
  ⟨"P.NOTEOFF", .gi, 0x52000000#32, 0xFFFFFE80#32⟩,
  ⟨"P.RENDER", .g, 0x53000000#32, 0xFFFFFFFF#32⟩,
  ⟨"P.EVENT", .gi, 0x54000000#32, 0xFFFFFC80#32⟩]

/-- The opcode map (rule R92). -/
def opcodeRows : List OpcodeRow := opcodeRowsLow ++ opcodeRowsHigh

/-- The word spells the row's command (rule R92). -/
def OpcodeRow.spells (r : OpcodeRow) (w : Word) : Bool := w &&& r.mask == r.pattern

/-- The row index of a command in the opcode map. -/
def Instr.rowIndex : Instr → Nat
  | .sysReset => 0
  | .oscSetwave _ _ => 1
  | .oscSetfreq _ => 2
  | .oscSetsr _ => 3
  | .oscReset _ => 4
  | .oscNext _ => 5
  | .envNoteon _ => 6
  | .envNoteoff _ => 7
  | .envNext _ => 8
  | .envSetparams _ => 9
  | .envSetsr _ => 10
  | .envIsactive _ => 11
  | .envGetlevel _ => 12
  | .envGetstage _ => 13
  | .fltPrepare _ => 14
  | .fltReset _ => 15
  | .fltSetcutoff _ => 16
  | .fltSetres _ => 17
  | .fltProcess _ => 18
  | .vPrepare _ => 19
  | .vStart _ _ => 20
  | .vStop _ _ => 21
  | .vRender _ => 22
  | .vUpdosc _ _ => 23
  | .vUpdflt _ => 24
  | .vUpdadsr _ => 25
  | .vQuery _ => 26
  | .pPrepare => 27
  | .pNoteon _ => 28
  | .pNoteoff _ _ => 29
  | .pRender => 30
  | .pEvent _ _ _ => 31

/-- A command's row of the opcode map. -/
def Instr.row? (i : Instr) : Option OpcodeRow := opcodeRows[i.rowIndex]?

/-- A command's mnemonic (rule R92). -/
def Instr.mnemonic (i : Instr) : String :=
  match i.row? with
  | some r => r.mnemonic
  | none => ""

end Sys2Proof
end

