-- ==== Sys2Proof/Machine/State.lean ====
section
/-! DEFINITION. The state of the core (rule R20), what reset leaves (rule R44), the moves of the outside world (rules R60, R66), and
the reasons a step can stop. Plain data throughout. -/

namespace Sys2Proof.Machine

/-- The envelope stages, in the order of their codes 0 to 4 (rule R43). -/
inductive Stage where
  | idle
  | attack
  | decay
  | sustain
  | release
  deriving DecidableEq, Repr

/-- The two sample memories (rules R42, R60). -/
inductive Space where
  | dest
  | scr
  deriving DecidableEq, Repr

/-- Oscillator state (rule R31). -/
structure Osc where
  wave  : Waveform
  /-- Hz -/
  freq  : F32
  /-- Hz -/
  sr    : F32
  phase : F32
  inc   : F32
  deriving DecidableEq, Repr

/-- EnvelopeGenerator state (rule R33). -/
structure Env where
  stage : Stage
  level : F32
  /-- attackSeconds -/
  a     : F32
  /-- decaySeconds -/
  d     : F32
  /-- sustainLevel -/
  s     : F32
  /-- releaseSeconds -/
  r     : F32
  /-- Hz -/
  sr    : F32
  deriving DecidableEq, Repr

/-- ResonantFilter state (rule R35): one pair of integrator states per channel. -/
structure Flt where
  cutoff   : F32
  q        : F32
  sr       : F32
  maxblock : Word
  nchan    : Word
  prepared : Bool
  s1       : List F32
  s2       : List F32
  deriving DecidableEq, Repr

/-- Voice state (rule R37). `note = none` is `NOTE_NONE`, a value of the spec's own (rule R43). -/
structure Voice where
  osc    : Osc
  env    : Env
  flt    : Flt
  active : Bool
  note   : Option (BitVec 7)
  ts     : BitVec 64
  ready  : Bool
  deriving DecidableEq, Repr

/-- Pool state (rule R39). -/
structure Pool where
  tsctr    : BitVec 64
  ready    : Bool
  sr       : F32
  maxblock : Word
  nchan    : Word
  deriving DecidableEq, Repr

/-- An event record (rules R41, R103). -/
structure EventRec where
  kind : EventKind
  note : BitVec 7
  tail : Bool
  deriving DecidableEq, Repr

/-- The eight timbre parameters `P[0..7]`, and their snapshot `S[0..7]` (rules R29, R30). -/
structure Params where
  waveform  : Word
  cutoff    : F32
  resonance : F32
  attack    : F32
  decay     : F32
  sustain   : F32
  release   : F32
  masterVol : F32
  deriving DecidableEq, Repr

/-- The five sticky error bits of `STATUS`, bits 8 to 12 (rule R26). -/
structure ErrorBits where
  illegal : Bool
  operand : Bool
  notPrep : Bool
  range   : Bool
  evqFull : Bool
  deriving DecidableEq, Repr

/-- A sample memory: `(word address, word)` pairs, addresses strictly rising; an address not listed holds no
value (rules R42, R62, R63; assumptions 6 and 7). -/
abbrev Memory := List (Nat × Word)

/-- The canonical form of a sample memory: addresses strictly rising. Every listed word is a value, so no entry
equals what an unlisted address holds. -/
def Memory.wf : Memory → Bool
  | [] => true
  | [_] => true
  | x :: y :: rest => decide (x.1 < y.1) && Memory.wf (y :: rest)

/-- A host transaction (rule R60). -/
inductive HostTxn where
  | regWrite (n : Nat) (w : Word)
  | regRead (n : Nat)
  | memWrite (sp : Space) (c i : Nat) (w : Word)
  | memRead (sp : Space) (c i : Nat)
  deriving DecidableEq, Repr

/-- A control-host write of `P[k]` that arrives while a command runs. `slot` says when: before latch read number
`slot` of `LatchSnapshot` if that is 0..7, after all eight otherwise (rule R66, U10). -/
structure CtlWrite where
  slot : Nat
  k    : Fin 8
  w    : Word
  deriving DecidableEq, Repr

/-- What happens next at the core's boundary (rules R12, R60, R66, R120, R310). -/
inductive Move where
  /-- a host transaction, of either host role -/
  | host (t : HostTxn)
  /-- the engine runs the issued command to completion, while the control host makes these writes -/
  | engine (during : List CtlWrite)
  /-- the hardware reset (rule R310 (a)) -/
  | hardReset
  deriving DecidableEq, Repr

/-- The state of the core, and below the line the model's own fields (assumption 8). -/
structure State where
  /-- the configuration record: fixed for the instance, no rule changes it (rules R7, R46; assumption 9) -/
  cfg      : Config
  /-- register 0 (rule R25) -/
  cmd      : Word
  /-- `STATUS` bit 0 (rule R26) -/
  busy     : Bool
  /-- `STATUS` bits 12:8 (rule R26) -/
  err      : ErrorBits
  /-- register 2 (rule R27) -/
  errcause : Word
  /-- register 3 (rule R27) -/
  errcmd   : Word
  /-- registers 4 to 7 (rule R22) -/
  a0       : Word
  a1       : Word
  a2       : Word
  a3       : Word
  /-- register 8 (rule R22) -/
  r0       : Word
  /-- `P[0..7]`, registers 16 to 23 (rule R29) -/
  params   : Params
  /-- `S[0..7]` (rule R30) -/
  snap     : Params
  /-- `V[0..NVOICES-1]` (rules R31 to R38) -/
  voices   : List Voice
  /-- rule R39 -/
  pool     : Pool
  /-- the event queue, head first (rule R41) -/
  events   : List EventRec
  /-- rule R42 -/
  dest     : Memory
  /-- rule R42 -/
  scr      : Memory
  -- the model's own fields
  /-- the moves of the outside world still to come, in the order in which they happen -/
  moves    : List Move
  /-- the control-host writes that arrive while the running command runs (rule R66) -/
  during   : List CtlWrite
  /-- the word the last host read returned (rule R60) -/
  rdata    : Word
  /-- how many commands have run: it names the free values a command draws (assumptions 2 and 3) -/
  draws    : Nat
  deriving DecidableEq, Repr

/-- Why the machine stops. -/
inductive Fault where
  /-- A sample-memory word that nothing has written since reset was read, by the engine or by the host
  (rules R21, R42, R77, R315, U3). Safe: the hardware would go on with bits the spec declines to name. -/
  | unwritten (sp : Space) (addr : Nat)
  /-- The engine formed an element outside a sample memory. No reachable state does (rule R69). Safe. -/
  | outsideMemory (sp : Space) (c i : Nat)
  deriving DecidableEq, Repr

/-- What the model declines to do. -/
inductive Refusal where
  /-- Raised by `exec` for an instruction that has no meaning yet. Safe. -/
  | notModelled (mnemonic : String)
  /-- Raised for a host transaction the host must not make while `BUSY = 1` (rules R61, R313, U9). Safe. -/
  | hostMoveWhileBusy
  /-- Raised for a host access to a register number above 31 (rule R69). Safe. -/
  | noSuchRegister (n : Nat)
  /-- Raised for a host access to a sample outside its memory (rule R69). Safe. -/
  | noSuchSample (sp : Space) (c i : Nat)
  deriving DecidableEq, Repr

/-- `P` and `S` at reset. The spec gives no value; zero is the model's (assumption 1). -/
def Params.reset : Params where
  waveform := 0#32
  cutoff := fZero
  resonance := fZero
  attack := fZero
  decay := fZero
  sustain := fZero
  release := fZero
  masterVol := fZero

/-- No error bit set (rule R44). -/
def ErrorBits.clear : ErrorBits where
  illegal := false
  operand := false
  notPrep := false
  range := false
  evqFull := false

/-- Rule R44; `freq`, `sr` and `inc` have no reset value in the spec (assumption 1). -/
def Osc.reset (c : Config) : Osc where
  wave := c.defaultWave
  freq := fZero
  sr := fZero
  phase := fZero
  inc := fZero

/-- Rule R44; `a`, `d`, `s`, `r` and `sr` have no reset value in the spec (assumption 1). -/
def Env.reset : Env where
  stage := .idle
  level := fZero
  a := fZero
  d := fZero
  s := fZero
  r := fZero
  sr := fZero

/-- Rule R44; `cutoff`, `q` and `sr` have no reset value in the spec (assumption 1). -/
def Flt.reset (c : Config) : Flt where
  cutoff := fZero
  q := fZero
  sr := fZero
  maxblock := 0#32
  nchan := 0#32
  prepared := false
  s1 := List.replicate c.capChan fZero
  s2 := List.replicate c.capChan fZero

/-- Rule R44. -/
def Voice.reset (c : Config) : Voice where
  osc := Osc.reset c
  env := Env.reset
  flt := Flt.reset c
  active := false
  note := none
  ts := 0#64
  ready := false

/-- Rule R44; `sr` has no reset value in the spec (assumption 1). -/
def Pool.reset : Pool where
  tsctr := 0#64
  ready := false
  sr := fZero
  maxblock := 0#32
  nchan := 0#32

/-- The state after a hardware reset of an instance (rules R44, R310, R311). `A0..A3` and `R0` have no reset
value in the spec (assumption 1). -/
def State.resetOf (c : Config) : State where
  cfg := c
  cmd := 0#32
  busy := false
  err := ErrorBits.clear
  errcause := 0#32
  errcmd := 0#32
  a0 := 0#32
  a1 := 0#32
  a2 := 0#32
  a3 := 0#32
  r0 := 0#32
  params := Params.reset
  snap := Params.reset
  voices := List.replicate c.nvoices (Voice.reset c)
  pool := Pool.reset
  events := []
  dest := []
  scr := []
  moves := []
  during := []
  rdata := 0#32
  draws := 0

/-- The default instance right after a hardware reset (rules R7, R44, R310, R311). -/
def State.reset : State := State.resetOf Config.default

end Sys2Proof.Machine
end

