-- ==== Sys2Proof/Machine/Flags.lean ====
section
/-! DEFINITION. The core's only flags: the `STATUS` register, its sticky error bits and the five causes of a command error
(rules R26, R281). -/

namespace Sys2Proof.Machine

/-- The command errors (rule R281). -/
inductive CmdError where
  | illegalCommand
  | badOperand
  | notPrepared
  | range
  | eventQueueFull
  deriving DecidableEq, Repr

/-- The cause code of an error (rule R281). -/
def CmdError.cause : CmdError → Word
  | .illegalCommand => 1#32
  | .badOperand => 2#32
  | .notPrepared => 3#32
  | .range => 4#32
  | .eventQueueFull => 5#32

/-- `STATUS[b] <- 1` for the bit of an error; the other bits stay (rules R281, R282). -/
def ErrorBits.raised (b : ErrorBits) : CmdError → ErrorBits
  | .illegalCommand => { b with illegal := true }
  | .badOperand => { b with operand := true }
  | .notPrepared => { b with notPrep := true }
  | .range => { b with range := true }
  | .eventQueueFull => { b with evqFull := true }

/-- A word with only bit `n` possibly set. -/
def bitWord (n : Nat) (b : Bool) : Word := if b then BitVec.twoPow 32 n else 0#32

/-- The word a read of `STATUS` returns; bits 7:2 and 31:13 read 0 (rule R26). `READY` is the pool's ready flag. -/
def State.statusWord (s : State) : Word :=
  bitWord 0 s.busy ||| bitWord 1 s.pool.ready
  ||| bitWord 8 s.err.illegal ||| bitWord 9 s.err.operand ||| bitWord 10 s.err.notPrep
  ||| bitWord 11 s.err.range ||| bitWord 12 s.err.evqFull

/-- A host write of `w` to `STATUS` clears each error bit whose written bit is 1 (rule R26). -/
def ErrorBits.cleared (b : ErrorBits) (w : Word) : ErrorBits where
  illegal := b.illegal && !w.getLsbD 8
  operand := b.operand && !w.getLsbD 9
  notPrep := b.notPrep && !w.getLsbD 10
  range := b.range && !w.getLsbD 11
  evqFull := b.evqFull && !w.getLsbD 12

/-- No error is recorded in `STATUS[12:8]` (rule R291). -/
def ErrorBits.none (b : ErrorBits) : Bool :=
  !b.illegal && !b.operand && !b.notPrep && !b.range && !b.evqFull

end Sys2Proof.Machine
end

