-- ==== Sys2Proof/Machine/Float.lean ====
section
/-! DEFINITION. IEEE-754 binary32 arithmetic, rounded to nearest with ties to even (rules R10, R124 to R127, R137).

A finite datum is an exact multiple of `2^-149`; `fMag` is that multiple. Each operation computes exactly on
integers and is narrowed once, by `roundRat`. -/

namespace Sys2Proof.Machine

/-- What an arithmetic operation needs besides its operands: the parameter `FTZ` (rule R126), and the name of
the NaN it would draw (rule R125, U7; assumption 3). -/
structure Fp where
  ftz  : Bool
  path : List Nat
  deriving DecidableEq, Repr

/-- The arithmetic context of the `k`-th part of a computation: the same `FTZ`, a NaN draw of its own. -/
def Fp.sub (m : Fp) (k : Nat) : Fp := { m with path := k :: m.path }

/-- Sign bit 31. -/
def fSign (x : F32) : Bool := x.msb

/-- Exponent bits 30:23. -/
def fExp (x : F32) : Nat := x.toNat / 2 ^ 23 % 256

/-- Fraction bits 22:0. -/
def fFrac (x : F32) : Nat := x.toNat % 2 ^ 23

def fIsNaN (x : F32) : Bool := decide (fExp x = 255) && decide (fFrac x ≠ 0)

def fIsInf (x : F32) : Bool := decide (fExp x = 255) && decide (fFrac x = 0)

def fIsFinite (x : F32) : Bool := decide (fExp x ≠ 255)

def fIsZero (x : F32) : Bool := decide (fExp x = 0) && decide (fFrac x = 0)

def fIsSubnormal (x : F32) : Bool := decide (fExp x = 0) && decide (fFrac x ≠ 0)

/-- The magnitude of `x` in units of `2^-149`; for an infinity the value `2^277`, above that of every finite datum. -/
def fMag (x : F32) : Nat :=
  if fExp x = 0 then fFrac x else (2 ^ 23 + fFrac x) * 2 ^ (fExp x - 1)

/-- The value of `x` in units of `2^-149`, with `fMag`'s convention for infinities. -/
def fVal (x : F32) : Int := if fSign x then -(fMag x : Int) else (fMag x : Int)

/-- The datum with the given sign whose bits 30:0 are `n`. -/
def fPack (neg : Bool) (n : Nat) : F32 := BitVec.ofNat 32 (if neg then 2 ^ 31 + n else n)

def fInf (neg : Bool) : F32 := fPack neg 0x7F800000

def fNeg (x : F32) : F32 := x ^^^ 0x80000000#32

/-- Rounding to nearest, ties to even, of the quotient `m + r/d` to an integer: `m` is the truncated quotient, `r`
the remainder and `d` the divisor (rule R124). -/
def roundEven (m r d : Nat) : Nat :=
  if d < 2 * r ∨ (2 * r = d ∧ m % 2 = 1) then m + 1 else m

/-- The binary32 datum nearest to `num / den` units of `2^-149`, ties to even, overflow to infinity (rule R124).
`q` is the exponent, in units of the last place, at which 24 significand bits remain. -/
def roundRat (neg : Bool) (num den : Nat) : F32 :=
  let q := Nat.log2 (num / den) - 23
  let d := den * 2 ^ q
  fPack neg (min (q * 2 ^ 23 + roundEven (num / d) (num % d) d) 0x7F800000)

/-- The NaN an operation draws: exponent all ones, fraction not zero, otherwise free (rule R125, U7). -/
def fNaN (m : Fp) : F32 :=
  let w := Config.freeNaN m.path
  let frac := w.toNat % 2 ^ 23
  fPack w.msb (0x7F800000 + if frac = 0 then 1 else frac)

/-- With `FTZ`, a subnormal becomes the zero of its sign (rule R126). -/
def fFlush (m : Fp) (x : F32) : F32 :=
  if m.ftz && fIsSubnormal x then fPack (fSign x) 0 else x

/-- The sum of two operands already flushed. -/
def faddCore (m : Fp) (a b : F32) : F32 :=
  if fIsNaN a || fIsNaN b then fNaN m
  else if fIsInf a then (if fIsInf b && (fSign a != fSign b) then fNaN m else a)
  else if fIsInf b then b
  else
    let t := fVal a + fVal b
    if t = 0 then fPack (fSign a && fSign b) 0
    else fFlush m (roundRat (decide (t < 0)) t.natAbs 1)

/-- `fadd(a, b)` (rules R10, R124 to R127). -/
def fadd (m : Fp) (a b : F32) : F32 := faddCore m (fFlush m a) (fFlush m b)

/-- `fsub(a, b)` (rules R10, R124 to R127). -/
def fsub (m : Fp) (a b : F32) : F32 := faddCore m (fFlush m a) (fNeg (fFlush m b))

/-- The product of two operands already flushed. -/
def fmulCore (m : Fp) (a b : F32) : F32 :=
  let neg := fSign a != fSign b
  if fIsNaN a || fIsNaN b then fNaN m
  else if fIsInf a || fIsInf b then (if fIsZero a || fIsZero b then fNaN m else fInf neg)
  else fFlush m (roundRat neg (fMag a * fMag b) (2 ^ 149))

/-- `fmul(a, b)` (rules R10, R124 to R127). -/
def fmul (m : Fp) (a b : F32) : F32 := fmulCore m (fFlush m a) (fFlush m b)

/-- The quotient of two operands already flushed. -/
def fdivCore (m : Fp) (a b : F32) : F32 :=
  let neg := fSign a != fSign b
  if fIsNaN a || fIsNaN b then fNaN m
  else if fIsInf a then (if fIsInf b then fNaN m else fInf neg)
  else if fIsInf b then fPack neg 0
  else if fIsZero b then (if fIsZero a then fNaN m else fInf neg)
  else fFlush m (roundRat neg (fMag a * 2 ^ 149) (fMag b))

/-- `fdiv(a, b)` (rules R10, R124 to R127). -/
def fdiv (m : Fp) (a b : F32) : F32 := fdivCore m (fFlush m a) (fFlush m b)

/-- Neither operand is a NaN: the condition under which a quiet comparison can be true (rules R10, R127). -/
def fOrdered (a b : F32) : Bool := !fIsNaN a && !fIsNaN b

/-- `flt(a, b)` (rules R10, R127). -/
def flt (a b : F32) : Bool := fOrdered a b && decide (fVal a < fVal b)

/-- `fle(a, b)` (rules R10, R127). -/
def fle (a b : F32) : Bool := fOrdered a b && decide (fVal a ≤ fVal b)

/-- `fge(a, b)` (rules R10, R127). -/
def fge (a b : F32) : Bool := fOrdered a b && decide (fVal b ≤ fVal a)

/-- `feq(a, b)` (rules R10, R127). -/
def feq (a b : F32) : Bool := fOrdered a b && decide (fVal a = fVal b)

/-- The datum is finite and greater than zero: what a frequency and a sample rate must be (rules R157 (a), R200). -/
def fFinitePos (x : F32) : Bool := fIsFinite x && flt fZero x

end Sys2Proof.Machine
end

