-- ==== Sys2Proof/Machine/Numerics.lean ====
section
/-! DEFINITION. The numerics record `NUM`: its default fields (rules R128 to R132) and the choice between a default and another
function (rules R7, R133, U11). The default sine and tangent are computed in integer fixed point with 512
fraction bits and rounded once (assumption 5). -/

namespace Sys2Proof.Machine

/-- The fraction bits of the fixed-point numbers below. -/
abbrev fxBits : Nat := 512

/-- The fixed-point number 1. -/
def fxOne : Nat := 2 ^ fxBits

/-- The fixed-point number nearest to `π / 2`. -/
def fxHalfPi : Nat :=
  0x1921FB54442D18469898CC51701B839A252049C1114CF98E804177D4C76273644A29410F31C6809BBDF2A33679A748636605614DBE4BE286E9FC26ADADAA3848C

/-- The number of Horner steps; the first term left out is below `2^-512` for arguments up to `π / 4`. -/
abbrev fxTerms : Nat := 45

/-- Horner's scheme for `sin r / r = 1 - r²/(2·3) · (1 - r²/(4·5) · (...))`, with `r2 = r²`. -/
def sinHorner (r2 : Nat) : Nat → Nat → Nat
  | 0, acc => acc
  | n + 1, acc => sinHorner r2 n (fxOne - r2 * acc / fxOne / ((2 * (n + 1)) * (2 * (n + 1) + 1)))

/-- Horner's scheme for `cos r = 1 - r²/(1·2) · (1 - r²/(3·4) · (...))`, with `r2 = r²`. -/
def cosHorner (r2 : Nat) : Nat → Nat → Nat
  | 0, acc => acc
  | n + 1, acc => cosHorner r2 n (fxOne - r2 * acc / fxOne / ((2 * n + 1) * (2 * n + 2)))

/-- Sine of a fixed-point number in `[0, π/4]`. -/
def fxSin (r : Nat) : Nat := r * sinHorner (r * r / fxOne) fxTerms fxOne / fxOne

/-- Cosine of a fixed-point number in `[0, π/4]`. -/
def fxCos (r : Nat) : Nat := cosHorner (r * r / fxOne) fxTerms fxOne

/-- The nearest multiple of `π / 2` to a magnitude, modulo 4, and the signed rest: `x = k · π/2 + r`. -/
structure Reduced where
  quadrant : Nat
  negRest  : Bool
  rest     : Nat
  deriving DecidableEq, Repr

/-- Argument reduction of the magnitude of `x`, exact but for the error of `fxHalfPi`. -/
def reduceArg (x : F32) : Reduced :=
  let t := fMag x * 2 ^ (fxBits - 149)
  let k := (2 * t + fxHalfPi) / (2 * fxHalfPi)
  let kh := k * fxHalfPi
  { quadrant := k % 4, negRest := decide (t < kh), rest := if t < kh then kh - t else t - kh }

/-- `SIN32` (rule R128): the binary32 value nearest to the real sine of `x`. DESIGN CHOICE (assumption 23): R128 speaks of
real numbers only; of an infinity the model returns a NaN with free bits, as IEEE-754 does (rule R125), and of a
zero, whose sine both zeros are nearest to, the same zero. -/
def sin32 (m : Fp) (x : F32) : F32 :=
  let x := fFlush m x
  if fIsNaN x || fIsInf x then fNaN m
  else if fIsZero x then x
  else
    let r := reduceArg x
    let neg := fSign x != (decide (2 ≤ r.quadrant) != (decide (r.quadrant % 2 = 0) && r.negRest))
    let mag := if r.quadrant % 2 = 0 then fxSin r.rest else fxCos r.rest
    fFlush m (roundRat neg mag (2 ^ (fxBits - 149)))

/-- The default `TAN32` (rule R130): the binary32 value nearest to the real tangent of `x`. DESIGN CHOICE (assumption 23):
R130 speaks of real numbers only; of an infinity the model returns a NaN with free bits, and of a zero, whose tangent
both zeros are nearest to, the same zero. -/
def specTan32 (m : Fp) (x : F32) : F32 :=
  let x := fFlush m x
  if fIsNaN x || fIsInf x then fNaN m
  else if fIsZero x then x
  else
    let r := reduceArg x
    let s := fxSin r.rest
    let c := fxCos r.rest
    if r.quadrant % 2 = 0 then
      fFlush m (roundRat (fSign x != r.negRest) (s * 2 ^ 149) c)
    else
      fFlush m (roundRat (fSign x == r.negRest) (c * 2 ^ 149) s)

/-- `SIN2PI` (rule R128). -/
def sin2pi (c : Config) (m : Fp) (p : F32) : F32 :=
  match c.numSin with
  | .spec => sin32 (m.sub 1) (fmul (m.sub 0) fTwoPi p)
  | .other k => fFlush m (Config.otherSin2pi k (fFlush m p))

/-- The twelve values of the default `NOTEFREQ` table for the notes 0 to 11 (rule R129 and section 5 of its file). -/
def notefreqBase : Nat → F32
  | 0 => 0x4102D013#32
  | 1 => 0x410A9760#32
  | 2 => 0x4112D517#32
  | 3 => 0x411B9041#32
  | 4 => 0x4124D054#32
  | 5 => 0x412E9D37#32
  | 6 => 0x4138FF49#32
  | 7 => 0x4143FF6A#32
  | 8 => 0x414FA700#32
  | 9 => 0x415C0000#32
  | 10 => 0x416914F6#32
  | _ => 0x4176F110#32

/-- `NOTEFREQ` (rule R129). In the default table the fraction field repeats every 12 notes and the exponent
rises by one per octave. -/
def notefreq (c : Config) (m : Fp) (n : BitVec 7) : F32 :=
  match c.numFreq with
  | .spec => notefreqBase (n.toNat % 12) + BitVec.ofNat 32 (n.toNat / 12 * 2 ^ 23)
  | .other k => fFlush m (Config.otherNotefreq k n)

/-- `TAN32` (rule R130). -/
def tan32 (c : Config) (m : Fp) (x : F32) : F32 :=
  match c.numTan with
  | .spec => specTan32 m x
  | .other k => fFlush m (Config.otherTan32 k (fFlush m x))

/-- The default `SVF_COEF` (rule R131). -/
def specSvfCoef (c : Config) (m : Fp) (cutoff q sr : F32) : Coef :=
  let g := tan32 c (m.sub 0) (fdiv (m.sub 1) (fmul (m.sub 2) fPi cutoff) sr)
  let r2 := fdiv (m.sub 3) fOne q
  let h := fdiv (m.sub 4) fOne
    (fadd (m.sub 5) (fadd (m.sub 6) fOne (fmul (m.sub 7) r2 g)) (fmul (m.sub 8) g g))
  { g := g, r2 := r2, h := h }

/-- A coefficient set with its subnormals flushed (rule R126). -/
def flushCoef (m : Fp) (k : Coef) : Coef :=
  { g := fFlush m k.g, r2 := fFlush m k.r2, h := fFlush m k.h }

/-- `SVF_COEF` (rule R131). -/
def svfCoef (c : Config) (m : Fp) (cutoff q sr : F32) : Coef :=
  match c.numCoef with
  | .spec => specSvfCoef c m cutoff q sr
  | .other k => flushCoef m (Config.otherSvfCoef k (fFlush m cutoff) (fFlush m q) (fFlush m sr))

/-- The default `SVF_STEP` (rule R132): the lowpass output `y` and the states `s1'`, `s2'`. -/
def specSvfStep (m : Fp) (k : Coef) (x s1 s2 : F32) : F32 × F32 × F32 :=
  let yHP := fmul (m.sub 0) k.h
    (fsub (m.sub 1) (fsub (m.sub 2) x (fmul (m.sub 3) s1 (fadd (m.sub 4) k.g k.r2))) s2)
  let t := fmul (m.sub 5) yHP k.g
  let yBP := fadd (m.sub 6) t s1
  let s1' := fadd (m.sub 7) t yBP
  let u := fmul (m.sub 8) yBP k.g
  let y := fadd (m.sub 9) u s2
  let s2' := fadd (m.sub 10) u y
  (y, s1', s2')

/-- `SVF_STEP` (rule R132). -/
def svfStep (c : Config) (m : Fp) (k : Coef) (x s1 s2 : F32) : F32 × F32 × F32 :=
  match c.numStep with
  | .spec => specSvfStep m k x s1 s2
  | .other j =>
    let r := Config.otherSvfStep j (flushCoef m k) (fFlush m x) (fFlush m s1) (fFlush m s2)
    (fFlush m r.1, fFlush m r.2.1, fFlush m r.2.2)

end Sys2Proof.Machine
end

