-- ==== Sys2Proof/Machine/Operands.lean ====
section
/-! DEFINITION. The operands of the commands and the codes in which results are returned: the Voice named by `VIDX`, the waveform
selectors, the checks on prepare arguments and sample ranges, the packed result of `V.QUERY`
(rules R43, R93, R94, R102, R134, R200, R228). -/

namespace Sys2Proof.Machine

/-- The Voice index exists (check 2 of rule R96; rule R134 (c)). -/
def State.voiceExists (s : State) (v : BitVec 8) : Bool := decide (v.toNat < s.cfg.nvoices)

/-- `WSEL` as a waveform; 3 is not one (rules R43, R93, R151). -/
def waveOfSel (wsel : BitVec 2) : Option Waveform :=
  match wsel.toNat with
  | 0 => some .sine
  | 1 => some .saw
  | 2 => some .square
  | _ => none

/-- `WaveFromIndex` (rule R228): an index outside 0..2 falls back to `DEFAULT_WAVE`. -/
def waveFromIndex (c : Config) (idx : Word) : Waveform :=
  if idx = 0#32 then .sine
  else if idx = 1#32 then .saw
  else if idx = 2#32 then .square
  else c.defaultWave

/-- `PrepareArgsOk` (rule R200). -/
def prepareArgsOk (c : Config) (sr : F32) (mb nc : Word) : Bool :=
  fFinitePos sr
  && decide (1 ≤ mb.toNat) && decide (mb.toNat ≤ c.capBlock)
  && decide (1 ≤ nc.toNat) && decide (nc.toNat ≤ c.capChan)

/-- The region `startSample .. startSample + numSamples - 1` passes the prepared block; the sum does not wrap
(rules R134 (b), R204, R225, R281). DESIGN CHOICE (assumption 24): an empty region that starts above `maxblock` passes it
too, as the pseudocode has it, where R204's corner case and R286 (g) say that an empty region raises nothing. -/
def regionTooLong (start num maxblock : Word) : Bool := decide (maxblock.toNat < start.toNat + num.toNat)

/-- Waveform codes (rule R43). -/
def Waveform.code : Waveform → Nat
  | .sine => 0
  | .saw => 1
  | .square => 2

/-- Stage codes (rule R43). -/
def Stage.code : Stage → Nat
  | .idle => 0
  | .attack => 1
  | .decay => 2
  | .sustain => 3
  | .release => 4

/-- A flag as a `U32` result (rule R94). -/
def boolWord (b : Bool) : Word := if b then 1#32 else 0#32

/-- A Boolean as a number to be placed in a packed word. -/
def boolNat (b : Bool) : Nat := if b then 1 else 0

/-- The packed result of `V.QUERY` (rule R102). -/
def queryWord (x : Voice) : Word :=
  BitVec.ofNat 32
    ((match x.note with | some n => n.toNat | none => 0)
      + boolNat x.note.isSome * 2 ^ 7
      + boolNat x.active * 2 ^ 8
      + boolNat x.ready * 2 ^ 9
      + x.env.stage.code * 2 ^ 10
      + Waveform.code x.osc.wave * 2 ^ 13
      + boolNat x.flt.prepared * 2 ^ 15)

/-- `EVQCOUNT` (rule R28). -/
def State.evqCount (s : State) : Word := BitVec.ofNat 32 s.events.length

/-- The arithmetic context of the command that is running: `FTZ`, and a NaN draw no other command has. -/
def State.fp (s : State) : Fp := { ftz := s.cfg.ftz, path := [s.draws] }

/-- `P[k]`, `S[k]` by number (rules R24, R29). -/
def Params.get (p : Params) (k : Fin 8) : Word :=
  match k with
  | 0 => p.waveform
  | 1 => p.cutoff
  | 2 => p.resonance
  | 3 => p.attack
  | 4 => p.decay
  | 5 => p.sustain
  | 6 => p.release
  | 7 => p.masterVol

/-- `P[k] <- w`, `S[k] <- w` (rules R24, R29). -/
def Params.set (p : Params) (k : Fin 8) (w : Word) : Params :=
  match k with
  | 0 => { p with waveform := w }
  | 1 => { p with cutoff := w }
  | 2 => { p with resonance := w }
  | 3 => { p with attack := w }
  | 4 => { p with decay := w }
  | 5 => { p with sustain := w }
  | 6 => { p with release := w }
  | 7 => { p with masterVol := w }

end Sys2Proof.Machine
end

