-- ==== Sys2Proof/Machine/Ops.lean ====
section
/-! DEFINITION. The operations every command shares: counted loops, the Voices, the sample memories (rules R42, R62, R63), the result
register (rule R95), and the command error, the core's one exception (rule R282). There is no return from an
error: control never transfers (rule R280). -/

namespace Sys2Proof.Machine

/-- `for i in start..start+n-1: f i`, in that order, on a state only (rule R10). -/
def eachUp {σ : Type} (start : Nat) : Nat → (Nat → σ → σ) → σ → σ
  | 0, _, s => s
  | n + 1, f, s => eachUp (start + 1) n f (f start s)

/-- `for i in start..start+n-1: f i`, in that order, stopping at the first fault (rule R10). -/
def forUp {σ : Type} (start : Nat) : Nat → (Nat → σ → Except Fault σ) → σ → Except Fault σ
  | 0, _, s => .ok s
  | n + 1, f, s =>
    match f start s with
    | .ok s' => forUp (start + 1) n f s'
    | .error e => .error e

/-- `V[v]` (rule R10). Every state of an instance holds `NVOICES` Voices; the reset Voice stands for an index
beyond them, which no command reaches. -/
def State.voice (s : State) (v : Nat) : Voice := s.voices.getD v (Voice.reset s.cfg)

/-- `V[v] <- x`. -/
def State.setVoice (s : State) (v : Nat) (x : Voice) : State := { s with voices := s.voices.set v x }

/-- The word a sample memory holds at an address, if any was written (rules R42, R63). -/
def Memory.read : Memory → Nat → Option Word
  | [], _ => none
  | (b, w) :: rest, a => if a = b then some w else Memory.read rest a

/-- Store a word, keeping the addresses strictly rising (rule R63). -/
def Memory.write : Memory → Nat → Word → Memory
  | [], a, w => [(a, w)]
  | (b, x) :: rest, a, w =>
    if a < b then (a, w) :: (b, x) :: rest
    else if a = b then (a, w) :: rest
    else (b, x) :: Memory.write rest a w

/-- Element `(c, i)` exists (rules R62, R69). -/
def sampleExists (cfg : Config) (c i : Nat) : Bool := decide (c < cfg.capChan) && decide (i < cfg.capBlock)

/-- The word address of element `(c, i)` (rule R62). -/
def sampleAddr (cfg : Config) (c i : Nat) : Nat := c * cfg.capBlock + i

/-- One of the two sample memories. -/
def State.mem (s : State) : Space → Memory
  | .dest => s.dest
  | .scr => s.scr

/-- One of the two sample memories replaced. -/
def State.setMem (s : State) (sp : Space) (m : Memory) : State :=
  match sp with
  | .dest => { s with dest := m }
  | .scr => { s with scr := m }

/-- `MemRead(space, c, i)` (rules R10, R63); a word never written since reset is a fault (rules R21, R42). -/
def memRead (sp : Space) (c i : Nat) (s : State) : Except Fault F32 :=
  if sampleExists s.cfg c i then
    match (s.mem sp).read (sampleAddr s.cfg c i) with
    | some w => .ok w
    | none => .error (.unwritten sp (sampleAddr s.cfg c i))
  else .error (.outsideMemory sp c i)

/-- `MemWrite(space, c, i, w)` (rules R10, R63). -/
def memWrite (sp : Space) (c i : Nat) (w : F32) (s : State) : Except Fault State :=
  if sampleExists s.cfg c i then .ok (s.setMem sp ((s.mem sp).write (sampleAddr s.cfg c i) w))
  else .error (.outsideMemory sp c i)

/-- `MemWrite(space, c, i, f (MemRead(space, c, i)))`. -/
def memUpdate (sp : Space) (c i : Nat) (f : F32 → F32) (s : State) : Except Fault State :=
  match memRead sp c i s with
  | .ok x => memWrite sp c i (f x) s
  | .error e => .error e

/-- `R0 <- w` (rule R95). -/
def State.setR0 (s : State) (w : Word) : State := { s with r0 := w }

/-- TAKING A COMMAND ERROR, `raise X(w)` (rule R282). The command word `w` is the word `CMD` holds (rule R120). Nothing
else is written, and the command is complete. -/
def raise (e : CmdError) (s : State) : State :=
  { s with err := s.err.raised e, errcause := e.cause, errcmd := s.cmd, busy := false }

/-- The outcome of a command. -/
abbrev Out := Host.Outcome State Fault Refusal

/-- A command that ends with a command error. -/
def raised (e : CmdError) (s : State) : Out := .next (raise e s)

/-- A computation that may fault, as the outcome of a command. -/
def finish (r : Except Fault State) : Out :=
  match r with
  | .ok s => .next s
  | .error e => .fault e

/-- Check 2 of rule R96, shared by the formats `U` and `UI`: the Voice named must exist. -/
def onVoice (v : BitVec 8) (s : State) (body : Nat → Out) : Out :=
  if s.voiceExists v then body v.toNat else raised .badOperand s

/-- A command that only changes Voice `v`, by a function of that Voice. -/
def updVoice (v : BitVec 8) (s : State) (f : Voice → Voice) : Out :=
  onVoice v s fun n => .next (s.setVoice n (f (s.voice n)))

/-- A command that only returns a value computed from Voice `v` (rule R95). -/
def queryVoice (v : BitVec 8) (s : State) (f : Voice → Word) : Out :=
  onVoice v s fun n => .next (s.setR0 (f (s.voice n)))

end Sys2Proof.Machine
end

