-- ==== Sys2Proof/Machine/Envelope.lean ====
section
/-! DEFINITION. The EnvelopeGenerator unit (rules R170 to R181): its micro-operations and the eight `ENV.*` commands. -/

namespace Sys2Proof.Machine

/-- `EnvRate(sec, sr)` (rule R170). -/
def envRate (m : Fp) (sec sr : F32) : F32 := fdiv (m.sub 0) fOne (fmul (m.sub 1) sec sr)

/-- `EnvNoteOn` (rule R171). -/
def envNoteOn (e : Env) : Env := { e with stage := .attack }

/-- `EnvNoteOff` (rule R172): nothing in Idle. -/
def envNoteOff (e : Env) : Env := if e.stage = .idle then e else { e with stage := .release }

/-- The Attack sample of `EnvNext` (rules R173, R180). -/
def envAttack (m : Fp) (e : Env) : Env :=
  let l := fadd (m.sub 2) e.level (envRate m e.a e.sr)
  if fge l fOne then
    if feq e.d fZero then { e with level := e.s, stage := .sustain }
    else { e with level := fOne, stage := .decay }
  else { e with level := l }

/-- The Decay sample of `EnvNext` (rule R173). -/
def envDecay (m : Fp) (e : Env) : Env :=
  let l := fsub (m.sub 2) e.level (envRate m e.d e.sr)
  if fle l e.s then { e with level := e.s, stage := .sustain } else { e with level := l }

/-- The Release sample of `EnvNext` (rule R173). -/
def envRelease (m : Fp) (e : Env) : Env :=
  let l := fsub (m.sub 2) e.level (envRate m e.r e.sr)
  if fle l fZero then { e with level := fZero, stage := .idle } else { e with level := l }

/-- `EnvNext` (rule R173); the sample returned is the level after it (D25). -/
def envNext (m : Fp) (e : Env) : Env :=
  match e.stage with
  | .idle => e
  | .attack => envAttack m e
  | .decay => envDecay m e
  | .sustain => e
  | .release => envRelease m e

/-- `EnvSetParams` (rule R174). -/
def envSetParams (a d s r : F32) (e : Env) : Env := { e with a := a, d := d, s := s, r := r }

/-- `EnvSetSr` (rule R175). -/
def envSetSr (hz : F32) (e : Env) : Env := { e with sr := hz }

/-- `EnvIsActive` (rule R176). -/
def envIsActive (e : Env) : Bool := decide (e.stage ≠ .idle)

/-- `ENV.NOTEON` (rule R171). -/
def execEnvNoteon (v : BitVec 8) (s : State) : Out :=
  updVoice v s fun x => { x with env := envNoteOn x.env }

/-- `ENV.NOTEOFF` (rule R172). -/
def execEnvNoteoff (v : BitVec 8) (s : State) : Out :=
  updVoice v s fun x => { x with env := envNoteOff x.env }

/-- `ENV.NEXT` (rule R173). -/
def execEnvNext (v : BitVec 8) (s : State) : Out :=
  onVoice v s fun n =>
    let e := envNext s.fp (s.voice n).env
    .next ((s.setVoice n { s.voice n with env := e }).setR0 e.level)

/-- `ENV.SETPARAMS` (rule R174). -/
def execEnvSetparams (v : BitVec 8) (s : State) : Out :=
  updVoice v s fun x => { x with env := envSetParams s.a0 s.a1 s.a2 s.a3 x.env }

/-- `ENV.SETSR` (rule R175). -/
def execEnvSetsr (v : BitVec 8) (s : State) : Out :=
  updVoice v s fun x => { x with env := envSetSr s.a0 x.env }

/-- `ENV.ISACTIVE` (rule R176). -/
def execEnvIsactive (v : BitVec 8) (s : State) : Out :=
  queryVoice v s fun x => boolWord (envIsActive x.env)

/-- `ENV.GETLEVEL` (rule R177). -/
def execEnvGetlevel (v : BitVec 8) (s : State) : Out :=
  queryVoice v s fun x => x.env.level

/-- `ENV.GETSTAGE` (rule R178). -/
def execEnvGetstage (v : BitVec 8) (s : State) : Out :=
  queryVoice v s fun x => BitVec.ofNat 32 x.env.stage.code

end Sys2Proof.Machine
end

