-- ==== Sys2Proof/Machine/Filter.lean ====
section
/-! DEFINITION. The ResonantFilter unit (rules R200 to R205): its micro-operations and the five `FLT.*` commands. -/

namespace Sys2Proof.Machine

/-- `FltReset` (rule R201): the integrator states of every channel. -/
def fltReset (c : Config) (f : Flt) : Flt :=
  { f with s1 := List.replicate c.capChan fZero, s2 := List.replicate c.capChan fZero }

/-- `FltPrepare`, after its check (rule R200). -/
def fltPrepare (c : Config) (sr : F32) (mb nc : Word) (f : Flt) : Flt :=
  { fltReset c { f with sr := sr, maxblock := mb, nchan := nc } with prepared := true }

/-- `FltSetCutoff` (rule R202). -/
def fltSetCutoff (hz : F32) (f : Flt) : Flt := { f with cutoff := hz }

/-- `FltSetRes` (rule R203). -/
def fltSetRes (q : F32) (f : Flt) : Flt := { f with q := q }

/-- One sample of one channel: the output, and the filter with the channel's states moved (rules R132, R204). -/
def fltSample (c : Config) (m : Fp) (k : Coef) (ch : Nat) (x : F32) (f : Flt) : F32 × Flt :=
  let r := svfStep c m k x (f.s1.getD ch fZero) (f.s2.getD ch fZero)
  (r.1, { f with s1 := f.s1.set ch r.2.1, s2 := f.s2.set ch r.2.2 })

/-- The inner statements of `FltProcess` for element `(ch, i)` of `SCR` (rule R204). -/
def fltElement (m : Fp) (k : Coef) (v ch i : Nat) (s : State) : Except Fault State :=
  match memRead .scr ch i s with
  | .error e => .error e
  | .ok x =>
    let r := fltSample s.cfg m k ch x (s.voice v).flt
    match memWrite .scr ch i r.1 s with
    | .error e => .error e
    | .ok s' => .ok (s'.setVoice v { s.voice v with flt := r.2 })

/-- `FltProcess(v, start, num)` (rules R204, R205): one coefficient set for the whole region. -/
def fltProcess (m : Fp) (v start num : Nat) (s : State) : Except Fault State :=
  let f := (s.voice v).flt
  let k := svfCoef s.cfg (m.sub 0) f.cutoff f.q f.sr
  forUp 0 f.nchan.toNat
    (fun ch => forUp start num fun i => fltElement (((m.sub 1).sub ch).sub i) k v ch i) s

/-- `FLT.PREPARE` (rule R200). -/
def execFltPrepare (v : BitVec 8) (s : State) : Out :=
  onVoice v s fun n =>
    if prepareArgsOk s.cfg s.a0 s.a1 s.a2 then
      .next (s.setVoice n { s.voice n with flt := fltPrepare s.cfg s.a0 s.a1 s.a2 (s.voice n).flt })
    else raised .badOperand s

/-- `FLT.RESET` (rule R201). -/
def execFltReset (v : BitVec 8) (s : State) : Out :=
  updVoice v s fun x => { x with flt := fltReset s.cfg x.flt }

/-- `FLT.SETCUTOFF` (rule R202). -/
def execFltSetcutoff (v : BitVec 8) (s : State) : Out :=
  updVoice v s fun x => { x with flt := fltSetCutoff s.a0 x.flt }

/-- `FLT.SETRES` (rule R203). -/
def execFltSetres (v : BitVec 8) (s : State) : Out :=
  updVoice v s fun x => { x with flt := fltSetRes s.a0 x.flt }

/-- `FLT.PROCESS` (rule R204). -/
def execFltProcess (v : BitVec 8) (s : State) : Out :=
  onVoice v s fun n =>
    if !(s.voice n).flt.prepared then raised .notPrepared s
    else if regionTooLong s.a0 s.a1 (s.voice n).flt.maxblock then raised .range s
    else finish (fltProcess s.fp n s.a0.toNat s.a1.toNat s)

end Sys2Proof.Machine
end

