-- ==== Sys2Proof/Machine/Oscillator.lean ====
section
/-! DEFINITION. The Oscillator unit (rules R150 to R157): its micro-operations and the five `OSC.*` commands. -/

namespace Sys2Proof.Machine

/-- `OscRecomputeInc` (rule R150). Unless both operands are finite and positive the increment is undefined
(rule R157 (a), U1) and takes a free value (assumption 2). -/
def oscRecomputeInc (m : Fp) (o : Osc) : Osc :=
  { o with inc :=
      if fFinitePos o.freq && fFinitePos o.sr then fdiv m o.freq o.sr else Config.freeInc m.path }

/-- `OscSetWave` (rule R151). -/
def oscSetWave (w : Waveform) (o : Osc) : Osc := { o with wave := w }

/-- `OscSetFreq` (rule R152). -/
def oscSetFreq (m : Fp) (hz : F32) (o : Osc) : Osc := oscRecomputeInc m { o with freq := hz }

/-- `OscSetSr` (rule R153). -/
def oscSetSr (m : Fp) (hz : F32) (o : Osc) : Osc := oscRecomputeInc m { o with sr := hz }

/-- `OscReset` (rule R154). -/
def oscReset (o : Osc) : Osc := { o with phase := fZero }

/-- `Wave(w, p)` (rule R156). -/
def wave (c : Config) (m : Fp) (w : Waveform) (p : F32) : F32 :=
  match w with
  | .sine => sin2pi c (m.sub 0) p
  | .saw => fsub (m.sub 1) (fmul (m.sub 2) fTwo p) fOne
  | .square => if flt p fHalf then fOne else fNegOne

/-- The phase after one sample: advanced by the increment, wrapped by one subtraction (rule R155). -/
def phaseNext (m : Fp) (phase inc : F32) : F32 :=
  let p := fadd (m.sub 1) phase inc
  if fge p fOne then fsub (m.sub 2) p fOne else p

/-- `OscNext` (rule R155): the sample at the current phase, and the Oscillator after it. -/
def oscNext (c : Config) (m : Fp) (o : Osc) : F32 × Osc :=
  (wave c (m.sub 0) o.wave o.phase, { o with phase := phaseNext m o.phase o.inc })

/-- `OSC.SETWAVE` (rule R151); `WSEL = 3` is a bad operand. -/
def execOscSetwave (v : BitVec 8) (wsel : BitVec 2) (s : State) : Out :=
  onVoice v s fun n =>
    match waveOfSel wsel with
    | some w => .next (s.setVoice n { s.voice n with osc := oscSetWave w (s.voice n).osc })
    | none => raised .badOperand s

/-- `OSC.SETFREQ` (rule R152). -/
def execOscSetfreq (v : BitVec 8) (s : State) : Out :=
  updVoice v s fun x => { x with osc := oscSetFreq s.fp s.a0 x.osc }

/-- `OSC.SETSR` (rule R153). -/
def execOscSetsr (v : BitVec 8) (s : State) : Out :=
  updVoice v s fun x => { x with osc := oscSetSr s.fp s.a0 x.osc }

/-- `OSC.RESET` (rule R154). -/
def execOscReset (v : BitVec 8) (s : State) : Out :=
  updVoice v s fun x => { x with osc := oscReset x.osc }

/-- `OSC.NEXT` (rule R155). -/
def execOscNext (v : BitVec 8) (s : State) : Out :=
  onVoice v s fun n =>
    let r := oscNext s.cfg s.fp (s.voice n).osc
    .next ((s.setVoice n { s.voice n with osc := r.2 }).setR0 r.1)

end Sys2Proof.Machine
end

