-- ==== Sys2Proof/Machine/Voice.lean ====
section
/-! DEFINITION. The Voice unit (rules R220 to R231): note lifecycle, block rendering, and the eight `V.*` commands. -/

namespace Sys2Proof.Machine

/-- What `StartNote` does to the Voice itself (rule R220); `ts` is the timestamp it takes. -/
def Voice.started (c : Config) (m : Fp) (n : BitVec 7) (ts : BitVec 64) (x : Voice) : Voice :=
  { x with
    osc := oscReset (oscSetFreq m (notefreq c m n) x.osc)
    env := envNoteOn x.env
    active := true
    note := some n
    ts := ts }

/-- `StartNote(v, n)` (rules R220, R262). The counter wraps after `2^64 - 1` (rule R134 (a), assumption 10). -/
def startNote (m : Fp) (v : Nat) (n : BitVec 7) (s : State) : State :=
  { s.setVoice v ((s.voice v).started s.cfg m n s.pool.tsctr) with
    pool := { s.pool with tsctr := s.pool.tsctr + 1#64 } }

/-- `ClearVoice` on the Voice itself (rule R223). -/
def Voice.cleared (x : Voice) : Voice := { x with active := false, note := none }

/-- `ClearVoice(v)` (rule R223). -/
def clearVoice (v : Nat) (s : State) : State := s.setVoice v (s.voice v).cleared

/-- `StopNote` on the Voice itself (rule R224). -/
def Voice.stopped (tail : Bool) (x : Voice) : Voice :=
  let y := { x with env := envNoteOff x.env }
  if !tail || !envIsActive y.env then y.cleared else y

/-- `StopNote(v, tail)` (rule R224). -/
def stopNote (tail : Bool) (v : Nat) (s : State) : State := s.setVoice v ((s.voice v).stopped tail)

/-- The per-sample loop of `RenderVoice` (rule R225): `n` samples left, the next at index `i`, `w` written so far.
It ends early, freeing the Voice, after the sample in which the envelope becomes inactive. -/
def renderSamples (m : Fp) (v nc : Nat) : Nat → Nat → Nat → State → Except Fault (Nat × State)
  | 0, _, w, s => .ok (w, s)
  | n + 1, i, w, s =>
    let mi := m.sub i
    let o := oscNext s.cfg (mi.sub 0) (s.voice v).osc
    let e := envNext (mi.sub 1) (s.voice v).env
    let x := fmul (mi.sub 2) o.1 e.level
    let pulled := s.setVoice v { s.voice v with osc := o.2, env := e }
    match forUp 0 nc (fun c => memUpdate .scr c i fun y => fadd ((mi.sub 3).sub c) y x) pulled with
    | .error f => .error f
    | .ok s' =>
      if envIsActive e then renderSamples m v nc n (i + 1) (w + 1) s'
      else .ok (w + 1, clearVoice v s')

/-- The first loop of `RenderVoice`: the region of `SCR` starts silent (rule R225). -/
def clearScratch (nc start num : Nat) (s : State) : Except Fault State :=
  forUp 0 nc (fun c => forUp start num fun i => memWrite .scr c i fZero) s

/-- `DEST[c][i] <- fadd(DEST[c][i], SCR[c][i])` (rule R225). -/
def mixElement (m : Fp) (c i : Nat) (s : State) : Except Fault State :=
  match memRead .scr c i s with
  | .ok y => memUpdate .dest c i (fun x => fadd m x y) s
  | .error e => .error e

/-- The last loop of `RenderVoice`: additive mixing into `DEST` (rule R225). -/
def mixScratch (m : Fp) (nc start len : Nat) (s : State) : Except Fault State :=
  forUp 0 nc (fun c => forUp start len fun i => mixElement ((m.sub c).sub i) c i) s

/-- `RenderVoice(v, start, num)` (rules R225, R226). -/
def renderVoice (m : Fp) (v start num : Nat) (s : State) : Except Fault State :=
  if (s.voice v).active then
    let nc := (s.voice v).flt.nchan.toNat
    match clearScratch nc start num s with
    | .error e => .error e
    | .ok s1 =>
      match renderSamples (m.sub 0) v nc num start 0 s1 with
      | .error e => .error e
      | .ok (w, s2) =>
        let len := if s.cfg.filterRange = .full then num else w
        match fltProcess (m.sub 1) v start len s2 with
        | .error e => .error e
        | .ok s3 => mixScratch (m.sub 2) nc start len s3
  else .ok s

/-- `PrepareVoice` on the Voice itself, after its check (rule R227). -/
def Voice.prepareAll (c : Config) (m : Fp) (sr : F32) (mb nc : Word) (x : Voice) : Voice :=
  { x with
    osc := oscSetSr m sr x.osc
    env := envSetSr sr x.env
    flt := fltPrepare c sr mb nc x.flt
    ready := true }

/-- `UpdateOsc` (rule R228). -/
def Voice.updateOsc (c : Config) (idx : Word) (x : Voice) : Voice :=
  { x with osc := oscSetWave (waveFromIndex c idx) x.osc }

/-- `UpdateFilter` (rule R229). -/
def Voice.updateFilter (fc q : F32) (x : Voice) : Voice :=
  { x with flt := fltSetRes q (fltSetCutoff fc x.flt) }

/-- `UpdateAdsr` (rule R230). -/
def Voice.updateAdsr (a d s r : F32) (x : Voice) : Voice :=
  { x with env := envSetParams a d s r x.env }

/-- `V.PREPARE` (rule R227). -/
def execVPrepare (v : BitVec 8) (s : State) : Out :=
  onVoice v s fun n =>
    if prepareArgsOk s.cfg s.a0 s.a1 s.a2 then
      .next (s.setVoice n ((s.voice n).prepareAll s.cfg s.fp s.a0 s.a1 s.a2))
    else raised .badOperand s

/-- `V.START` (rule R222); velocity is not read (rule R221). -/
def execVStart (v : BitVec 8) (note : BitVec 7) (s : State) : Out :=
  onVoice v s fun n => .next (startNote s.fp n note s)

/-- `V.STOP` (rule R224); velocity is not read (rule R221). -/
def execVStop (v : BitVec 8) (tail : Bool) (s : State) : Out :=
  onVoice v s fun n => .next (stopNote tail n s)

/-- `V.RENDER` (rule R225). -/
def execVRender (v : BitVec 8) (s : State) : Out :=
  onVoice v s fun n =>
    if !(s.voice n).ready then raised .notPrepared s
    else if regionTooLong s.a0 s.a1 (s.voice n).flt.maxblock then raised .range s
    else finish (renderVoice s.fp n s.a0.toNat s.a1.toNat s)

/-- `V.UPDOSC` (rule R228). -/
def execVUpdosc (v : BitVec 8) (widx : BitVec 16) (s : State) : Out :=
  updVoice v s fun x => x.updateOsc s.cfg (widx.zeroExtend 32)

/-- `V.UPDFLT` (rule R229). -/
def execVUpdflt (v : BitVec 8) (s : State) : Out :=
  updVoice v s fun x => x.updateFilter s.a0 s.a1

/-- `V.UPDADSR` (rule R230). -/
def execVUpdadsr (v : BitVec 8) (s : State) : Out :=
  updVoice v s fun x => x.updateAdsr s.a0 s.a1 s.a2 s.a3

/-- `V.QUERY` (rules R102, R231). -/
def execVQuery (v : BitVec 8) (s : State) : Out := queryVoice v s queryWord

end Sys2Proof.Machine
end

