-- ==== Sys2Proof/Machine/Pool.lean ====
section
/-! DEFINITION. The VoicePool unit (rules R250 to R262): allocation, stealing, the event queue, the block sequence, and the five `P.*`
commands. -/

namespace Sys2Proof.Machine

/-- `FindAssigned(n)`: the lowest active Voice that holds the note (rule R251). -/
def findAssigned (s : State) (n : BitVec 7) : Option Nat :=
  s.voices.findIdx? fun x => x.active && decide (x.note = some n)

/-- `FindFree()`: the lowest Voice that is not active (rule R251). -/
def findFree (s : State) : Option Nat := s.voices.findIdx? fun x => !x.active

/-- Voice `x` is taken over the candidate `best` (rule R252): lower level, or equal level and older timestamp. -/
def stealsOver (x best : Voice) : Bool :=
  flt x.env.level best.env.level
  || (feq x.env.level best.env.level && decide (x.ts.toNat < best.ts.toNat))

/-- The candidates of rule R252: the Voices in Release, or all Voices if there is none. -/
def stealCandidates (s : State) : List Nat :=
  let all := List.range s.cfg.nvoices
  let rel := all.filter fun v => decide ((s.voice v).env.stage = .release)
  if rel.isEmpty then all else rel

/-- `StealChoice()` (rule R252): one ascending scan of the candidates. -/
def stealChoice (s : State) : Nat :=
  match stealCandidates s with
  | [] => 0
  | b :: rest => rest.foldl (fun best v => if stealsOver (s.voice v) (s.voice best) then v else best) b

/-- `AllocNoteOn(n)` (rule R253). -/
def allocNoteOn (m : Fp) (n : BitVec 7) (s : State) : State :=
  match findAssigned s n with
  | some v => startNote m v n s
  | none =>
    match findFree s with
    | some v => startNote m v n s
    | none => startNote m (stealChoice s) n (clearVoice (stealChoice s) s)

/-- `RouteNoteOff(n, tail)` (rule R254). -/
def routeNoteOff (n : BitVec 7) (tail : Bool) (s : State) : State :=
  match findAssigned s n with
  | some v => stopNote tail v s
  | none => s

/-- A control-host write of `P[k]` lands (rules R29, R66). -/
def landWrite (s : State) (x : CtlWrite) : State := { s with params := s.params.set x.k x.w }

/-- The control-host writes that fall before latch read number `k` land (rule R66). -/
def landSlot (k : Nat) (s : State) : State := (s.during.filter fun x => decide (x.slot = k)).foldl landWrite s

/-- One latch read: `S[k] <- P[k]` (rule R257), after the control-host writes that fall before it. -/
def latchRead (k : Fin 8) (s : State) : State :=
  let s := landSlot k.val s
  { s with snap := s.snap.set k (s.params.get k) }

/-- `LatchSnapshot()` (rules R66, R257): eight separate reads, between which control-host writes may land. The writes
that fall after the eighth read stay for the end of the command. -/
def latchSnapshot (s : State) : State :=
  let s := latchRead 7 (latchRead 6 (latchRead 5 (latchRead 4
    (latchRead 3 (latchRead 2 (latchRead 1 (latchRead 0 s)))))))
  { s with during := s.during.filter fun x => decide (8 ≤ x.slot) }

/-- One Voice of `ApplySnapshot()` (rule R256). -/
def Voice.applyParams (c : Config) (p : Params) (x : Voice) : Voice :=
  ((x.updateOsc c p.waveform).updateFilter p.cutoff p.resonance).updateAdsr p.attack p.decay p.sustain p.release

/-- `ApplySnapshot()` (rule R256). -/
def applySnapshot (s : State) : State :=
  eachUp 0 s.cfg.nvoices (fun v s => s.setVoice v ((s.voice v).applyParams s.cfg s.snap)) s

/-- One event record takes effect (rule R258). -/
def dispatchEvent (m : Fp) (e : EventRec) (s : State) : State :=
  match e.kind with
  | .noteOn => allocNoteOn m e.note s
  | .noteOff => routeNoteOff e.note e.tail s

/-- The records take effect in queue order; `i` counts them (rule R258). -/
def dispatchList (m : Fp) : Nat → List EventRec → State → State
  | _, [], s => s
  | i, e :: rest, s => dispatchList m (i + 1) rest (dispatchEvent (m.sub i) e s)

/-- `DispatchEvents()` (rule R258): the queue ends empty. -/
def dispatchEvents (m : Fp) (s : State) : State := dispatchList m 0 s.events { s with events := [] }

/-- One pass of the Voice loop of `P.RENDER` (rule R259). -/
def renderIfReady (m : Fp) (num v : Nat) (s : State) : Except Fault State :=
  if (s.voice v).ready then renderVoice m v 0 num s else .ok s

/-- The master gain (rules R259, R260). -/
def masterGain (m : Fp) (num : Nat) (s : State) : Except Fault State :=
  forUp 0 s.pool.nchan.toNat
    (fun c => forUp 0 num fun i =>
      memUpdate .dest c i fun x => fmul ((m.sub c).sub i) x s.snap.masterVol) s

/-- The block sequence of `P.RENDER`, after its checks (rule R259). -/
def renderBlock (m : Fp) (num : Nat) (s : State) : Except Fault State :=
  let s1 := dispatchEvents (m.sub 0) (applySnapshot (latchSnapshot s))
  match forUp 0 s1.cfg.nvoices (fun v => renderIfReady ((m.sub 1).sub v) num v) s1 with
  | .ok s2 => masterGain (m.sub 2) num s2
  | .error e => .error e

/-- `P.PREPARE` after its check: the pool's values, every Voice, the ready flag (rule R250). -/
def preparePool (m : Fp) (sr : F32) (mb nc : Word) (s : State) : State :=
  let s1 := { s with pool := { s.pool with sr := sr, maxblock := mb, nchan := nc } }
  let s2 := eachUp 0 s.cfg.nvoices
    (fun v s => s.setVoice v ((s.voice v).prepareAll s.cfg (m.sub v) sr mb nc)) s1
  { s2 with pool := { s2.pool with ready := true } }

/-- `P.PREPARE` (rule R250). -/
def execPPrepare (s : State) : Out :=
  if prepareArgsOk s.cfg s.a0 s.a1 s.a2 then .next (preparePool s.fp s.a0 s.a1 s.a2 s)
  else raised .badOperand s

/-- `P.NOTEON` (rule R253); velocity is not read (rule R221). -/
def execPNoteon (note : BitVec 7) (s : State) : Out := .next (allocNoteOn s.fp note s)

/-- `P.NOTEOFF` (rule R254); velocity is not read (rule R221). -/
def execPNoteoff (note : BitVec 7) (tail : Bool) (s : State) : Out := .next (routeNoteOff note tail s)

/-- `P.RENDER` (rule R259). -/
def execPRender (s : State) : Out :=
  if !s.pool.ready then raised .notPrepared s
  else if s.pool.maxblock.toNat < s.a0.toNat then raised .range s
  else finish (renderBlock s.fp s.a0.toNat s)

/-- `P.EVENT` (rule R255); velocity and sample offset are not read and not stored (rules R103, R221). -/
def execPEvent (kind : EventKind) (note : BitVec 7) (tail : Bool) (s : State) : Out :=
  if s.cfg.evqCap ≤ s.events.length then raised .eventQueueFull s
  else .next { s with events := s.events ++ [{ kind := kind, note := note, tail := tail }] }

end Sys2Proof.Machine
end

