-- ==== Sys2Proof/Machine/Sys.lean ====
section
/-! DEFINITION. The SYS unit: `SYS.RESET` (rule R136), and the hardware reset, the other of the two causes of reset (rule R310). -/

namespace Sys2Proof.Machine

/-- Every piece of the core's state takes its reset value (rule R44); the model's own fields and the
configuration stay (rule R46, assumption 8). -/
def State.toReset (s : State) (cmd : Word) : State :=
  { State.resetOf s.cfg with
    cmd := cmd, moves := s.moves, during := s.during, rdata := s.rdata, draws := s.draws }

/-- `SYS.RESET`: `CMD` keeps the word just written (rules R136, R311). -/
def execSysReset (s : State) : Out := .next (s.toReset s.cmd)

/-- The hardware reset: `CMD` reads 0 after it, and a command that was running is gone (rules R310, R311). -/
def hardwareReset (s : State) : State := { s.toReset 0#32 with during := [] }

end Sys2Proof.Machine
end

