-- ==== Sys2Proof/Machine/HostPort.lean ====
section
/-! DEFINITION. The host side of the core: the register map (rules R24 to R29, R45), host transactions (rules R60, R61, R67, R69), and
the two ends of the command cycle (rule R120). -/

namespace Sys2Proof.Machine

/-- The number of a parameter register, if `n` is one (rule R24). -/
def paramIndex (n : Nat) : Option (Fin 8) :=
  if h : 16 ≤ n ∧ n < 24 then some ⟨n - 16, by omega⟩ else none

/-- The word a read of register `n` returns, `n` in 0..31 (rules R24 to R29, R45). -/
def regValue (n : Nat) (s : State) : Word :=
  match n with
  | 0 => s.cmd
  | 1 => s.statusWord
  | 2 => s.errcause
  | 3 => s.errcmd
  | 4 => s.a0
  | 5 => s.a1
  | 6 => s.a2
  | 7 => s.a3
  | 8 => s.r0
  | 9 => BitVec.ofNat 32 s.cfg.nvoices
  | 10 => BitVec.ofNat 32 s.cfg.capBlock
  | 11 => BitVec.ofNat 32 s.cfg.capChan
  | 12 => BitVec.ofNat 32 s.cfg.evqCap
  | 13 => s.evqCount
  | 14 => s.pool.tsctr.extractLsb' 0 32
  | 15 => s.pool.tsctr.extractLsb' 32 32
  | _ =>
    match paramIndex n with
    | some k => s.params.get k
    | none => 0#32

/-- `HostRegRead(n)`: any register, at any time, with no side effect (rules R61, R67). -/
def hostRegRead (n : Nat) (s : State) : Out :=
  if n < 32 then .next { s with rdata := regValue n s } else .refused (.noSuchRegister n)

/-- The effect of a host write of register `n` in 0..15 or 24..31 while no command runs (rules R24 to R27, R45, R67):
`CMD` issues a command (rule R120), `STATUS` clears error bits, read-only and reserved registers ignore it. -/
def regWriteIdle (n : Nat) (w : Word) (s : State) : State :=
  match n with
  | 0 => { s with cmd := w, busy := true }
  | 1 => { s with err := s.err.cleared w }
  | 4 => { s with a0 := w }
  | 5 => { s with a1 := w }
  | 6 => { s with a2 := w }
  | 7 => { s with a3 := w }
  | _ => s

/-- `HostRegWrite(n, w)`: a parameter register at any time (rule R66), any other only while `BUSY = 0` (rules R61, R313). -/
def hostRegWrite (n : Nat) (w : Word) (s : State) : Out :=
  if n < 32 then
    match paramIndex n with
    | some k => .next { s with params := s.params.set k w }
    | none => if s.busy then .refused .hostMoveWhileBusy else .next (regWriteIdle n w s)
  else .refused (.noSuchRegister n)

/-- `HostMemWrite(space, c, i, w)`, only while `BUSY = 0` (rules R60, R61, R69). -/
def hostMemWrite (sp : Space) (c i : Nat) (w : Word) (s : State) : Out :=
  if s.busy then .refused .hostMoveWhileBusy
  else if sampleExists s.cfg c i then finish (memWrite sp c i w s)
  else .refused (.noSuchSample sp c i)

/-- `HostMemRead(space, c, i)`, only while `BUSY = 0` (rules R60, R61, R69); an unwritten word is a fault (U3). -/
def hostMemRead (sp : Space) (c i : Nat) (s : State) : Out :=
  if s.busy then .refused .hostMoveWhileBusy
  else if sampleExists s.cfg c i then
    match memRead sp c i s with
    | .ok w => .next { s with rdata := w }
    | .error e => .fault e
  else .refused (.noSuchSample sp c i)

/-- One host transaction (rule R60). -/
def hostTxn (t : HostTxn) (s : State) : Out :=
  match t with
  | .regWrite n w => hostRegWrite n w s
  | .regRead n => hostRegRead n s
  | .memWrite sp c i w => hostMemWrite sp c i w s
  | .memRead sp c i => hostMemRead sp c i s

/-- The control-host writes of the engine move that no latch has met land (rule R66 (iii)). -/
def landRest (s : State) : State :=
  let s := eachUp 0 8 (fun k s => landSlot k s) s
  { (s.during.filter fun x => decide (8 ≤ x.slot)).foldl landWrite s with during := [] }

/-- The word the engine decodes: what `CMD` holds (rules R25, R120). -/
def fetchWord (s : State) : Word := s.cmd

/-- The end of the command cycle: `BUSY <- 0` (rule R120 step 5); the remaining control-host writes land; the next
command draws free values of its own. -/
def completeCommand (s : State) : State :=
  { landRest s with busy := false, draws := s.draws + 1 }

/-- The end of the command cycle on the outcome of the command. -/
def complete (o : Out) : Out :=
  match o with
  | .next s => .next (completeCommand s)
  | .fault f => .fault f
  | .refused r => .refused r

/-- An engine move while no command runs: the engine does nothing (rule R120), the control-host writes land. -/
def engineIdle (during : List CtlWrite) (s : State) : State := landRest { s with during := during }

end Sys2Proof.Machine
end

