-- ==== Sys2Proof/Machine/Dispatch.lean ====
section
/-! DEFINITION. One arm per command: what it does (rule R92 names the rule of each). -/

namespace Sys2Proof.Machine

/-- The commands (rule R92). -/
def exec (i : Instr) (s : State) : Host.Outcome State Fault Refusal :=
  match i with
  -- unit SYS
  | .sysReset => Sys2Proof.Machine.execSysReset s
  -- unit OSC
  | .oscSetwave v wsel => Sys2Proof.Machine.execOscSetwave v wsel s
  | .oscSetfreq v => Sys2Proof.Machine.execOscSetfreq v s
  | .oscSetsr v => Sys2Proof.Machine.execOscSetsr v s
  | .oscReset v => Sys2Proof.Machine.execOscReset v s
  | .oscNext v => Sys2Proof.Machine.execOscNext v s
  -- unit ENV
  | .envNoteon v => Sys2Proof.Machine.execEnvNoteon v s
  | .envNoteoff v => Sys2Proof.Machine.execEnvNoteoff v s
  | .envNext v => Sys2Proof.Machine.execEnvNext v s
  | .envSetparams v => Sys2Proof.Machine.execEnvSetparams v s
  | .envSetsr v => Sys2Proof.Machine.execEnvSetsr v s
  | .envIsactive v => Sys2Proof.Machine.execEnvIsactive v s
  | .envGetlevel v => Sys2Proof.Machine.execEnvGetlevel v s
  | .envGetstage v => Sys2Proof.Machine.execEnvGetstage v s
  -- unit FLT
  | .fltPrepare v => Sys2Proof.Machine.execFltPrepare v s
  | .fltReset v => Sys2Proof.Machine.execFltReset v s
  | .fltSetcutoff v => Sys2Proof.Machine.execFltSetcutoff v s
  | .fltSetres v => Sys2Proof.Machine.execFltSetres v s
  | .fltProcess v => Sys2Proof.Machine.execFltProcess v s
  -- unit V
  | .vPrepare v => Sys2Proof.Machine.execVPrepare v s
  | .vStart v note => Sys2Proof.Machine.execVStart v note s
  | .vStop v tail => Sys2Proof.Machine.execVStop v tail s
  | .vRender v => Sys2Proof.Machine.execVRender v s
  | .vUpdosc v widx => Sys2Proof.Machine.execVUpdosc v widx s
  | .vUpdflt v => Sys2Proof.Machine.execVUpdflt v s
  | .vUpdadsr v => Sys2Proof.Machine.execVUpdadsr v s
  | .vQuery v => Sys2Proof.Machine.execVQuery v s
  -- unit P
  | .pPrepare => Sys2Proof.Machine.execPPrepare s
  | .pNoteon note => Sys2Proof.Machine.execPNoteon note s
  | .pNoteoff note tail => Sys2Proof.Machine.execPNoteoff note tail s
  | .pRender => Sys2Proof.Machine.execPRender s
  | .pEvent kind note tail => Sys2Proof.Machine.execPEvent kind note tail s

end Sys2Proof.Machine
end

