-- ==== Sys2Proof/Machine/Step.lean ====
section
/-! DEFINITION. One step: one host transaction, or one whole command (rules R12, R70, R120). -/

namespace Sys2Proof.Machine

/-- Steps 2 to 4 of the command cycle (rule R120): decode the command word, then raise `IllegalCommand` (rules R96, R97)
or run the command. -/
def runCommand (s : State) : Host.Outcome State Fault Refusal :=
  match decode (fetchWord s) with
  | .ok i => exec i s
  | .error _ => raised .illegalCommand s

/-- The engine's move (rule R120): it runs the command that was issued, or does nothing. -/
def engineMove (during : List CtlWrite) (s : State) : Host.Outcome State Fault Refusal :=
  if s.busy then complete (runCommand { s with during := during }) else .next (engineIdle during s)

/-- One step: the next move of the outside world; when it makes none, the engine completes a command that was issued,
and otherwise nothing changes (rule R120). -/
def step (s : State) : Host.Outcome State Fault Refusal :=
  match s.moves with
  | .host t :: rest => hostTxn t { s with moves := rest }
  | .engine during :: rest => engineMove during { s with moves := rest }
  | .hardReset :: rest => .next (hardwareReset { s with moves := rest })
  | [] => if s.busy then engineMove [] s else .next s

/-- The state with a command word issued: in `CMD`, with `BUSY = 1`, and the engine's move next, so that the next step
decodes and runs that word (assumption 11). -/
def State.withFetchWord (s : State) (nbits w : Nat) : State :=
  { s with cmd := BitVec.ofNat 32 (w % 2 ^ nbits), busy := true, moves := .engine [] :: s.moves }

end Sys2Proof.Machine
end

