-- ==== Sys2Proof/Machine/Admissible.lean ====
section
/-! DEFINITION. Which numerics records are admissible (rule R133), and which configurations are instances of the core (rules R7, R133).

A claim about every instance takes `Config.Instance` as a premise; `Config.wf` alone is the part that can be decided.
Each property speaks of the arithmetic of the configuration, that is of contexts with its `FTZ`. -/

namespace Sys2Proof.Machine

/-- R133 (a), (b): `SIN2PI`. -/
def SineOk (c : Config) : Prop :=
  ∀ m : Fp, m.ftz = c.ftz →
    sin2pi c m fZero = fZero
    ∧ ∀ p : F32, fle fZero p = true → flt p fOne = true →
        fle fNegOne (sin2pi c m p) = true ∧ fle (sin2pi c m p) fOne = true

/-- R133 (c), (d), (e): `NOTEFREQ`. The values of (e) are those of the notes 9, 21, …, 117: 440.0 is `0x43DC0000`, and
the exponent field grows by one per octave. -/
def NotesOk (c : Config) : Prop :=
  ∀ m : Fp, m.ftz = c.ftz →
    notefreq c m 69#7 = 0x43DC0000#32
    ∧ (∀ n : BitVec 7, fFinitePos (notefreq c m n) = true)
    ∧ (∀ n k : BitVec 7, n.toNat < k.toNat → flt (notefreq c m n) (notefreq c m k) = true)
    ∧ ∀ (n : BitVec 7) (k : Nat), k ≤ 9 → n.toNat = 9 + 12 * k →
        notefreq c m n = BitVec.ofNat 32 (0x415C0000 + k * 2 ^ 23)

/-- R133 (g): `SVF_STEP` keeps a silent filter silent, for every finite coefficient set; R133 (f) holds of every function
of the model. Of the default alone it is asked only where `g + R2` does not overflow: R133 says that the default is
admissible, and R132's pseudocode gives a NaN there. DEDUCED (assumption 12). -/
def SilentOk (c : Config) : Prop :=
  ∀ (m : Fp) (k : Coef) (x s1 s2 : F32), m.ftz = c.ftz →
    fIsFinite k.g = true → fIsFinite k.r2 = true → fIsFinite k.h = true →
    (c.numStep = .spec → fIsFinite (fadd (m.sub 4) k.g k.r2) = true) →
    fIsZero x = true → fIsZero s1 = true → fIsZero s2 = true →
    fIsZero (svfStep c m k x s1 s2).1 = true ∧ fIsZero (svfStep c m k x s1 s2).2.1 = true
    ∧ fIsZero (svfStep c m k x s1 s2).2.2 = true

/-- The numerics record is admissible (rule R133). -/
def NumOk (c : Config) : Prop := SineOk c ∧ NotesOk c ∧ SilentOk c

end Sys2Proof.Machine

namespace Sys2Proof

/-- A configuration that an instance of the core can have: the ranges of rule R7 and an admissible `NUM` (rule R133). -/
def Config.Instance (c : Config) : Prop := c.wf = true ∧ Machine.NumOk c

end Sys2Proof
end

