-- ==== Sys2Proof/Safety.lean ====
section
/-! DEFINITION. The terms in which claims speak: the invariant of the core, the frames of its commands, and runs that raise no
error. -/

namespace Sys2Proof

/-- A command that returns a value in `R0` (rules R94, R95). -/
def Instr.returnsValue : Instr → Bool
  | .oscNext _ => true
  | .envNext _ => true
  | .envIsactive _ => true
  | .envGetlevel _ => true
  | .envGetstage _ => true
  | .vQuery _ => true
  | _ => false

/-- The commands that read or write a sample memory (rules R204, R225, R259). -/
def Instr.usesMemory : Instr → Bool
  | .fltProcess _ => true
  | .vRender _ => true
  | .pRender => true
  | _ => false

end Sys2Proof

namespace Sys2Proof.Machine

/-- The filter fits the instance: a state pair per channel, prepared sizes within the capacities, and not zero once
prepared (rules R35, R200). -/
def Flt.wf (c : Config) (f : Flt) : Bool :=
  decide (f.s1.length = c.capChan) && decide (f.s2.length = c.capChan)
  && decide (f.maxblock.toNat ≤ c.capBlock) && decide (f.nchan.toNat ≤ c.capChan)
  && (!f.prepared || (decide (1 ≤ f.maxblock.toNat) && decide (1 ≤ f.nchan.toNat)))

/-- The Voice fits the instance; it is active exactly when it holds a note (rules R38, R261 (i)); it is ready only if
its filter is prepared (rule R227). -/
def Voice.wf (c : Config) (x : Voice) : Bool :=
  x.flt.wf c && (x.active == x.note.isSome) && (!x.ready || x.flt.prepared)

/-- Every listed address lies in the memory (rules R62, R69). -/
def Memory.within (c : Config) (m : Memory) : Bool :=
  m.all fun p => decide (p.1 < c.capChan * c.capBlock)

/-- The pool's prepared sizes are within the capacities, and not zero once the pool is ready (rules R39, R250). -/
def Pool.wf (c : Config) (p : Pool) : Bool :=
  decide (p.maxblock.toNat ≤ c.capBlock) && decide (p.nchan.toNat ≤ c.capChan)
  && (!p.ready || (decide (1 ≤ p.maxblock.toNat) && decide (1 ≤ p.nchan.toNat)))

/-- The state is one of an instance of the core: the configuration is in range (rule R7), there are `NVOICES` Voices,
the queue is not over-full (rule R41), the memories are in canonical form, and a ready pool has ready Voices
(rules R250, R259). -/
def State.wf (s : State) : Bool :=
  s.cfg.wf
  && decide (s.voices.length = s.cfg.nvoices)
  && s.voices.all (fun x => x.wf s.cfg)
  && s.pool.wf s.cfg
  && (!s.pool.ready || s.voices.all (fun x => x.ready))
  && decide (s.events.length ≤ s.cfg.evqCap)
  && s.dest.wf && s.dest.within s.cfg
  && s.scr.wf && s.scr.within s.cfg

/-- The invariant every step keeps. -/
def State.Inv (s : State) : Prop := s.wf = true

/-- The increment is the quotient of frequency and sample rate whenever both are finite and positive (rule R32 (ii));
which NaN the quotient is, where it is one, is left open. -/
def Osc.incOk (c : Config) (o : Osc) : Prop :=
  fFinitePos o.freq = true → fFinitePos o.sr = true → ∃ path, o.inc = fdiv ⟨c.ftz, path⟩ o.freq o.sr

/-- Rule R32 (ii) for every Voice. -/
def State.IncInv (s : State) : Prop := ∀ x ∈ s.voices, x.osc.incOk s.cfg

/-- No two active Voices hold the same note, and the timestamps of active Voices are pairwise different and below
the counter (rule R261 (ii), (iv)). -/
def State.PoolInv (s : State) : Prop :=
  (∀ (i j : Nat) (x y : Voice), s.voices[i]? = some x → s.voices[j]? = some y → i ≠ j →
    x.active = true → y.active = true → x.note ≠ y.note ∧ x.ts ≠ y.ts)
  ∧ (∀ x ∈ s.voices, x.active = true → x.ts.toNat < s.pool.tsctr.toNat)

/-- A number in the closed interval from 0 to 1, so not a NaN. -/
def fUnit (x : F32) : Prop := fle fZero x = true ∧ fle x fOne = true

/-- A number in the half-open interval from 0 up to 1, so not a NaN. -/
def fPhase (x : F32) : Prop := fle fZero x = true ∧ flt x fOne = true

/-- `r` is the real number `x`, in units of `2^-149`, rounded to nearest with ties to even (rule R124): the sign of `x`; an
infinity exactly from the midpoint above the largest finite datum on; otherwise no finite datum is nearer, and where
another is as near the last bit of `r` is 0. -/
structure RoundsTo (x : ℚ) (r : F32) : Prop where
  number   : fIsNaN r = false
  negative : x < 0 → fSign r = true
  positive : 0 < x → fSign r = false
  overflow : fIsInf r = true ↔ (2 ^ 25 - 1) * 2 ^ 252 ≤ |x|
  nearest  : fIsFinite r = true → ∀ y : F32, fIsFinite y = true →
    |x - (fVal r : ℚ)| ≤ |x - (fVal y : ℚ)|
    ∧ (|x - (fVal r : ℚ)| = |x - (fVal y : ℚ)| → fVal y ≠ fVal r → r.toNat % 2 = 0)

/-- Every element of the region holds a value (rules R21, R77). -/
def State.regionWritten (s : State) (sp : Space) (nchan start num : Nat) : Bool :=
  (List.range nchan).all fun c => (List.range num).all fun k =>
    ((s.mem sp).read (sampleAddr s.cfg c (start + k))).isSome

/-- The error record and the `CMD` register are as before. -/
def SameRecord (s t : State) : Prop :=
  t.cmd = s.cmd ∧ t.busy = s.busy ∧ t.err = s.err ∧ t.errcause = s.errcause ∧ t.errcmd = s.errcmd

/-- The operand registers are as before. -/
def SameOperands (s t : State) : Prop := t.a0 = s.a0 ∧ t.a1 = s.a1 ∧ t.a2 = s.a2 ∧ t.a3 = s.a3

/-- The parameter registers and the snapshot are as before. -/
def SameParams (s t : State) : Prop := t.params = s.params ∧ t.snap = s.snap

/-- The configuration and the model's own fields are as before. -/
def SameModel (s t : State) : Prop :=
  t.cfg = s.cfg ∧ t.moves = s.moves ∧ t.during = s.during ∧ t.rdata = s.rdata ∧ t.draws = s.draws

/-- Every word of the sample memory reads as before. -/
def SameMem (sp : Space) (s t : State) : Prop := ∀ a, (t.mem sp).read a = (s.mem sp).read a

/-- Every word of the sample memory outside the region of `nchan` channels reads as before. -/
def SameMemOutside (sp : Space) (nchan start num : Nat) (s t : State) : Prop :=
  ∀ a, (∀ c i, c < nchan → start ≤ i → i < start + num → a ≠ sampleAddr s.cfg c i) →
    (t.mem sp).read a = (s.mem sp).read a

/-- Every Voice but Voice `v` is as before. -/
def SameVoicesBut (v : Nat) (s t : State) : Prop :=
  t.voices.length = s.voices.length ∧ ∀ u, u ≠ v → t.voices[u]? = s.voices[u]?

/-- All a command leaves alone that touches Voices, `R0`, the pool or the memories only. -/
def SameHost (s t : State) : Prop := SameRecord s t ∧ SameOperands s t ∧ SameParams s t ∧ SameModel s t

/-- All that is neither a Voice nor `R0` is as before: the frame of a command that acts inside one Voice. -/
def SameOutsideVoices (s t : State) : Prop :=
  SameHost s t ∧ t.pool = s.pool ∧ t.events = s.events ∧ SameMem .dest s t ∧ SameMem .scr s t

/-- Voice `v` is the lowest-indexed Voice with the property (rule R251). -/
def LowestVoice (s : State) (p : Voice → Bool) (v : Nat) : Prop :=
  (∃ x, s.voices[v]? = some x ∧ p x = true) ∧ ∀ u x, u < v → s.voices[u]? = some x → p x = false

/-- The Voice is active and holds the note (rule R251). -/
def Voice.holds (n : BitVec 7) (x : Voice) : Bool := x.active && decide (x.note = some n)

/-- The Oscillator and the envelope of a Voice after `k` samples of a render from index `start` (rules R155, R173, R225). -/
def soundState (c : Config) (m : Fp) (start : Nat) (o : Osc) (e : Env) : Nat → Osc × Env
  | 0 => (o, e)
  | k + 1 =>
    let p := soundState c m start o e k
    ((oscNext c ((m.sub (start + k)).sub 0) p.1).2, envNext ((m.sub (start + k)).sub 1) p.2)

/-- Sample `k` of that render before the filter: the oscillator's sample times the envelope's (rule R225). -/
def soundSample (c : Config) (m : Fp) (start : Nat) (o : Osc) (e : Env) (k : Nat) : F32 :=
  fmul ((m.sub (start + k)).sub 2)
    (oscNext c ((m.sub (start + k)).sub 0) (soundState c m start o e k).1).1
    (soundState c m start o e (k + 1)).2.level

/-- The two states of a filter channel after `n` samples of the input `x` from index `start` (rules R132, R204). -/
def svfStates (c : Config) (m : Fp) (coef : Coef) (start : Nat) (x : Nat → F32) (a b : F32) : Nat → F32 × F32
  | 0 => (a, b)
  | n + 1 =>
    let p := svfStates c m coef start x a b n
    (svfStep c (m.sub (start + n)) coef (x n) p.1 p.2).2

/-- Output `n` of that channel (rules R132, R204). -/
def svfOutput (c : Config) (m : Fp) (coef : Coef) (start : Nat) (x : Nat → F32) (a b : F32) (n : Nat) : F32 :=
  let p := svfStates c m coef start x a b n
  (svfStep c (m.sub (start + n)) coef (x n) p.1 p.2).1

/-- The channels that one `P.RENDER` can touch: the pool's, and those of every ready Voice (rules R259, R320). -/
def State.renderChans (s : State) : Nat :=
  s.voices.foldl (fun k x => if x.ready then max k x.flt.nchan.toNat else k) s.pool.nchan.toNat

/-- Voice `x` of index `u` comes before Voice `y` of index `v` in the stealing order: level, then timestamp, then index
(rule R252). -/
def StealsBefore (x : Voice) (u : Nat) (y : Voice) (v : Nat) : Prop :=
  flt x.env.level y.env.level = true
  ∨ (feq x.env.level y.env.level = true
      ∧ (x.ts.toNat < y.ts.toNat ∨ (x.ts = y.ts ∧ u < v)))

/-- No error is recorded in `STATUS` (rule R291). -/
def NoError (s : State) : Prop := s.err.none = true

end Sys2Proof.Machine
end

