-- ==== Sys2Proof/Certificates/Slice0/Obligations.lean ====
section
/-! DEFINITION. The statements for the provers, in the order of OBLIGATIONS.json. -/

open Sys2Proof Sys2Proof.Machine

/- ## Encoding -/

/-- Decoding the word of a command gives the command back, every operand at every value (rules R92, R93). -/
def Obligations.DecodeInvertsEncode : Prop := ∀ i : Instr, decode (encode i) = .ok i

/-- A word that decodes to a command is that command's word: no word but one spells it (rules R92, R98). -/
def Obligations.EncodeInvertsDecode : Prop := ∀ (w : Word) (i : Instr), decode w = .ok i → encode i = w

/-- A word decodes to the command of a row exactly when `(w & mask) = match`, and no word matches two rows (rule R92). -/
def Obligations.DecodeFollowsOpcodeMap : Prop :=
  (∀ (w : Word) (r : OpcodeRow), r ∈ opcodeRows →
    ((∃ i, decode w = .ok i ∧ i.row? = some r) ↔ w &&& r.mask = r.pattern))
  ∧ ∀ (w : Word) (r q : OpcodeRow), r ∈ opcodeRows → q ∈ opcodeRows →
      w &&& r.mask = r.pattern → w &&& q.mask = q.pattern → r = q

/-- Words of the spec's own list (95_test_vectors.md section 7), at least one of each unit. -/
def Obligations.SpecWordsDecode : Prop :=
  decode 0x01000000#32 = .ok .sysReset
  ∧ decode 0x10020001#32 = .ok (.oscSetwave 2#8 1#2)
  ∧ decode 0x11030000#32 = .ok (.oscSetfreq 3#8)
  ∧ decode 0x24050000#32 = .ok (.envSetsr 5#8)
  ∧ decode 0x34000000#32 = .ok (.fltProcess 0#8)
  ∧ decode 0x41000045#32 = .ok (.vStart 0#8 69#7)
  ∧ decode 0x42000001#32 = .ok (.vStop 0#8 true)
  ∧ decode 0x44010007#32 = .ok (.vUpdosc 1#8 7#16)
  ∧ decode 0x52000145#32 = .ok (.pNoteoff 69#7 true)
  ∧ decode 0x54000245#32 = .ok (.pEvent .noteOn 69#7 false)
  ∧ decode 0x00000000#32 = .error .unassignedFn
  ∧ decode 0x60000000#32 = .error .unassignedUnit
  ∧ decode 0x41000080#32 = .error .immNotZero
  ∧ decode 0x53010000#32 = .error .vidxNotZero

/-- A word that matches no row raises `IllegalCommand` (cause 1) and changes nothing else (rule R97). -/
def Obligations.IllegalWordOnlyRecorded : Prop :=
  ∀ s : State, (∀ r ∈ opcodeRows, s.cmd &&& r.mask ≠ r.pattern) →
    runCommand s = .next { s with
      err := { s.err with illegal := true }, errcause := 1#32, errcmd := s.cmd, busy := false }

/- ## The command cycle and the host -/

/-- While a command is issued, a step runs the command that the word in `CMD` spells; the step adds the end of the
command cycle, which, when no control-host write is left to land, is `BUSY <- 0` and a new number for the free
values (rule R120; assumptions 8 and 11). -/
def Obligations.StepRunsDecodedCommand : Prop :=
  (∀ (s : State) (i : Instr), s.busy = true → decode s.cmd = .ok i →
    (∀ during rest, s.moves = .engine during :: rest →
      step s = complete (exec i { s with moves := rest, during := during }))
    ∧ (s.moves = [] → step s = complete (exec i { s with during := [] })))
  ∧ ∀ t : State, t.during = [] →
      complete (.next t) = .next { t with busy := false, draws := t.draws + 1 }

/-- A host write of `CMD` while `BUSY = 0` stores the word and sets `BUSY`; with no command issued and no move of the
host the engine changes nothing (rules R25, R120). -/
def Obligations.CommandIssueAndIdle : Prop :=
  (∀ (s : State) (w : Word) (rest : List Move), s.busy = false → s.moves = .host (.regWrite 0 w) :: rest →
    step s = .next { s with cmd := w, busy := true, moves := rest })
  ∧ ∀ s : State, s.busy = false → s.moves = [] → step s = .next s

/-- While a command runs the model offers the host register reads and parameter writes and no other transaction
(rule R313); those two take effect at any time (rules R66, R67). -/
def Obligations.HostMovesWhileBusy : Prop :=
  (∀ (s : State) (n : Nat) (w : Word) (rest : List Move), s.busy = true → n < 32 → ¬ (16 ≤ n ∧ n < 24) →
    s.moves = .host (.regWrite n w) :: rest → step s = .refused .hostMoveWhileBusy)
  ∧ (∀ (s : State) (sp : Space) (c i : Nat) (w : Word) (rest : List Move), s.busy = true →
    (s.moves = .host (.memWrite sp c i w) :: rest ∨ s.moves = .host (.memRead sp c i) :: rest) →
    step s = .refused .hostMoveWhileBusy)
  ∧ (∀ (s : State) (k : Fin 8) (w : Word) (rest : List Move), s.moves = .host (.regWrite (16 + k.val) w) :: rest →
    step s = .next { s with params := s.params.set k w, moves := rest })
  ∧ ∀ (s : State) (n : Nat) (rest : List Move), n < 32 → s.moves = .host (.regRead n) :: rest →
    ∃ w, step s = .next { s with moves := rest, rdata := w }

/-- A register read changes no state of the core, at any time, and returns: the register file by number, 0 for a
reserved number (rules R24, R45, R67). `rdata` and `moves` are the model's own fields. -/
def Obligations.RegisterReadsAreIdempotent : Prop :=
  ∀ (s : State) (n : Nat) (rest : List Move), n < 32 → s.moves = .host (.regRead n) :: rest →
    ∃ w, step s = .next { s with moves := rest, rdata := w }
      ∧ (n = 0 → w = s.cmd) ∧ (n = 1 → w = s.statusWord) ∧ (n = 2 → w = s.errcause) ∧ (n = 3 → w = s.errcmd)
      ∧ (n = 4 → w = s.a0) ∧ (n = 5 → w = s.a1) ∧ (n = 6 → w = s.a2) ∧ (n = 7 → w = s.a3) ∧ (n = 8 → w = s.r0)
      ∧ (n = 9 → w = BitVec.ofNat 32 s.cfg.nvoices) ∧ (n = 10 → w = BitVec.ofNat 32 s.cfg.capBlock)
      ∧ (n = 11 → w = BitVec.ofNat 32 s.cfg.capChan) ∧ (n = 12 → w = BitVec.ofNat 32 s.cfg.evqCap)
      ∧ (n = 13 → w = BitVec.ofNat 32 s.events.length)
      ∧ (n = 14 → w = s.pool.tsctr.extractLsb' 0 32) ∧ (n = 15 → w = s.pool.tsctr.extractLsb' 32 32)
      ∧ (∀ k : Fin 8, n = 16 + k.val → w = s.params.get k)
      ∧ (24 ≤ n → w = 0#32)

/-- Register writes while no command runs: `A0..A3` are stored; `ERRCAUSE`, `ERRCMD`, `R0`, the configuration and counter
registers ignore a write (rules R24, R67); the reserved numbers read 0, ignore a write and set no error bit, and the
numbers above 31 do not exist (rules R45, R69). -/
def Obligations.RegisterWritesWhileIdle : Prop :=
  (∀ (s : State) (w : Word) (rest : List Move), s.busy = false →
    (s.moves = .host (.regWrite 4 w) :: rest → step s = .next { s with a0 := w, moves := rest })
    ∧ (s.moves = .host (.regWrite 5 w) :: rest → step s = .next { s with a1 := w, moves := rest })
    ∧ (s.moves = .host (.regWrite 6 w) :: rest → step s = .next { s with a2 := w, moves := rest })
    ∧ (s.moves = .host (.regWrite 7 w) :: rest → step s = .next { s with a3 := w, moves := rest }))
  ∧ (∀ (s : State) (n : Nat) (w : Word) (rest : List Move), s.busy = false →
    (2 ≤ n ∧ n ≤ 3) ∨ (8 ≤ n ∧ n ≤ 15) ∨ (24 ≤ n ∧ n ≤ 31) →
    s.moves = .host (.regWrite n w) :: rest → step s = .next { s with moves := rest })
  ∧ (∀ (s : State) (n : Nat) (rest : List Move), 24 ≤ n → n ≤ 31 → s.moves = .host (.regRead n) :: rest →
    step s = .next { s with moves := rest, rdata := 0#32 })
  ∧ ∀ (s : State) (n : Nat) (w : Word) (rest : List Move), 31 < n →
    (s.moves = .host (.regRead n) :: rest ∨ s.moves = .host (.regWrite n w) :: rest) →
    step s = .refused (.noSuchRegister n)

/-- `STATUS` bit by bit, and a host write that clears exactly the error bits written as 1 (rule R26). -/
def Obligations.StatusBitsReadAndClear : Prop :=
  (∀ s : State,
    s.statusWord.getLsbD 0 = s.busy ∧ s.statusWord.getLsbD 1 = s.pool.ready
    ∧ s.statusWord.getLsbD 8 = s.err.illegal ∧ s.statusWord.getLsbD 9 = s.err.operand
    ∧ s.statusWord.getLsbD 10 = s.err.notPrep ∧ s.statusWord.getLsbD 11 = s.err.range
    ∧ s.statusWord.getLsbD 12 = s.err.evqFull
    ∧ ∀ j, (1 < j ∧ j < 8) ∨ 12 < j → s.statusWord.getLsbD j = false)
  ∧ ∀ (s : State) (w : Word) (rest : List Move), s.busy = false → s.moves = .host (.regWrite 1 w) :: rest →
    ∃ t, step s = .next t ∧ t = { s with moves := rest, err := t.err }
      ∧ ∀ j, t.statusWord.getLsbD j
          = (s.statusWord.getLsbD j && !(decide (8 ≤ j) && decide (j ≤ 12) && w.getLsbD j))

/- ## Reset -/

/-- What reset leaves, of what the spec gives a reset value (rules R44, R311), for every configuration; and `SYS.RESET`
makes that state again, but for `CMD` and the model's own fields (rules R136, R310). The values of the registers
that the spec leaves without one are the model's (assumption 1) and are not stated. A hardware reset makes that state
too, `CMD` reading 0 and a running command gone (rules R310, R311). -/
def Obligations.ResetLeavesTheTable : Prop :=
  (∀ c : Config, let r := State.resetOf c
    r.cmd = 0#32 ∧ r.statusWord = 0#32 ∧ r.errcause = 0#32 ∧ r.errcmd = 0#32 ∧ r.events = []
    ∧ r.pool.tsctr = 0#64 ∧ r.pool.ready = false ∧ r.pool.maxblock = 0#32 ∧ r.pool.nchan = 0#32
    ∧ r.voices.length = c.nvoices
    ∧ (∀ x ∈ r.voices, x.active = false ∧ x.note = none ∧ x.ts = 0#64 ∧ x.ready = false
        ∧ x.osc.wave = c.defaultWave ∧ x.osc.phase = fZero ∧ x.env.stage = .idle ∧ x.env.level = fZero
        ∧ x.flt.maxblock = 0#32 ∧ x.flt.nchan = 0#32 ∧ x.flt.prepared = false
        ∧ x.flt.s1 = List.replicate c.capChan fZero ∧ x.flt.s2 = List.replicate c.capChan fZero)
    ∧ ∀ a, r.dest.read a = none ∧ r.scr.read a = none)
  ∧ (∀ s : State, exec .sysReset s = .next { State.resetOf s.cfg with
      cmd := s.cmd, moves := s.moves, during := s.during, rdata := s.rdata, draws := s.draws })
  ∧ ∀ (s : State) (rest : List Move), s.moves = .hardReset :: rest →
    step s = .next { State.resetOf s.cfg with moves := rest, rdata := s.rdata, draws := s.draws }

/-- Every instance in range begins in the three invariants. That it begins in `IncInv` is the model's choice: `freq` and
`sr` are zero at reset, so not positive (assumption 1), where the spec leaves them without a value. -/
def Obligations.ResetSatisfiesInvariant : Prop :=
  ∀ c : Config, c.wf = true →
    (State.resetOf c).Inv ∧ (State.resetOf c).IncInv ∧ (State.resetOf c).PoolInv

/- ## Sample memories and arithmetic -/

/-- A sample written reads back, and no other element of either memory changes (rules R42, R62, R63). The host's two
memory transactions are these accesses, while no command runs (rules R60, R61); a word never written since reset
stops the read (rule R42, U3; assumption 7). -/
def Obligations.SampleReadAfterWrite : Prop :=
  (∀ (sp : Space) (c i : Nat) (w : Word) (s t : State), memWrite sp c i w s = .ok t →
    memRead sp c i t = .ok w
    ∧ ∀ (sq : Space) (d j : Nat), sampleExists s.cfg d j = true → (sq ≠ sp ∨ d ≠ c ∨ j ≠ i) →
        memRead sq d j t = memRead sq d j s)
  ∧ ∀ (sp : Space) (c i : Nat) (w : Word) (s : State) (rest : List Move), s.busy = false →
    sampleExists s.cfg c i = true →
    (s.moves = .host (.memWrite sp c i w) :: rest →
      ∃ t, memWrite sp c i w { s with moves := rest } = .ok t ∧ step s = .next t)
    ∧ (s.moves = .host (.memRead sp c i) :: rest →
      (memRead sp c i s = .ok w → step s = .next { s with moves := rest, rdata := w })
      ∧ ((s.mem sp).read (sampleAddr s.cfg c i) = none →
          step s = .fault (.unwritten sp (sampleAddr s.cfg c i))))

/-- Rounding to nearest, ties to even (rule R124): of the function `roundRat` on every quotient, and of the four operations
on finite operands, whose results are the exact sum, difference, product and quotient rounded once. Values are in
units of `2^-149`. Operands and result are flushed, which changes nothing without `FTZ` (rule R126). An exact zero
sum is a zero of the sign that IEEE-754 gives it (rule R127). -/
def Obligations.RoundingIsNearestTiesToEven : Prop :=
  (∀ (neg : Bool) (num den : Nat), 0 < den →
    fSign (roundRat neg num den) = neg
    ∧ RoundsTo ((if neg then -1 else 1) * ((num : ℚ) / (den : ℚ))) (roundRat neg num den))
  ∧ ∀ (m : Fp) (a b : F32), fIsFinite a = true → fIsFinite b = true →
    let x := fFlush m a
    let y := fFlush m b
    (fVal x + fVal y = 0 → fadd m a b = fPack (fSign x && fSign y) 0)
    ∧ (fVal x + fVal y ≠ 0 → ∃ r, RoundsTo ((fVal x : ℚ) + fVal y) r ∧ fadd m a b = fFlush m r)
    ∧ (fVal x = fVal y → fsub m a b = fPack (fSign x && !fSign y) 0)
    ∧ (fVal x ≠ fVal y → ∃ r, RoundsTo ((fVal x : ℚ) - fVal y) r ∧ fsub m a b = fFlush m r)
    ∧ (∃ r, RoundsTo ((fVal x : ℚ) * fVal y / 2 ^ 149) r ∧ fSign r = (fSign x != fSign y)
        ∧ fmul m a b = fFlush m r)
    ∧ (fIsZero y = false →
        ∃ r, RoundsTo ((fVal x : ℚ) * 2 ^ 149 / fVal y) r ∧ fSign r = (fSign x != fSign y)
          ∧ fdiv m a b = fFlush m r)

/-- Infinities, NaN, signed zeros and the quiet comparisons (rules R125, R127). -/
def Obligations.FloatSpecialCases : Prop :=
  (∀ (m : Fp) (x y : F32), fIsNaN x = true ∨ fIsNaN y = true →
    fIsNaN (fadd m x y) = true ∧ fIsNaN (fsub m x y) = true ∧ fIsNaN (fmul m x y) = true
    ∧ fIsNaN (fdiv m x y) = true
    ∧ flt x y = false ∧ fle x y = false ∧ fge x y = false ∧ feq x y = false)
  ∧ (∀ (m : Fp) (x y : F32), fIsFinite x = true → fIsZero (fFlush m x) = false → fIsZero y = true →
    fdiv m x y = fInf (fSign x != fSign y))
  ∧ (∀ (m : Fp) (x y : F32), fIsZero x = true → fIsZero y = true → fIsNaN (fdiv m x y) = true)
  ∧ (∀ (m : Fp) (x : F32), fIsInf x = true → fIsNaN (fsub m x x) = true)
  ∧ (∀ (m : Fp) (x y : F32), fIsZero x = true → fIsInf y = true → fIsNaN (fmul m x y) = true)
  ∧ (∀ (m : Fp) (x : F32), fIsFinite x = true → fadd m x (fNeg x) = fZero)
  ∧ (∀ m : Fp, fadd m fZero 0x80000000#32 = fZero ∧ fmul m fNegOne fZero = 0x80000000#32)
  ∧ feq fZero 0x80000000#32 = true

/-- With `FTZ` no operation and no field of `NUM` returns a subnormal, and each of them sees a subnormal operand as the
zero of its sign; without it nothing is flushed (rule R126). -/
def Obligations.FlushToZeroLeavesNoSubnormal : Prop :=
  (∀ (m : Fp) (a b : F32), m.ftz = true →
    fIsSubnormal (fadd m a b) = false ∧ fIsSubnormal (fsub m a b) = false
    ∧ fIsSubnormal (fmul m a b) = false ∧ fIsSubnormal (fdiv m a b) = false
    ∧ (fIsSubnormal a = true → fFlush m a = fPack (fSign a) 0)
    ∧ fadd m a b = fadd m (fFlush m a) (fFlush m b) ∧ fsub m a b = fsub m (fFlush m a) (fFlush m b)
    ∧ fmul m a b = fmul m (fFlush m a) (fFlush m b) ∧ fdiv m a b = fdiv m (fFlush m a) (fFlush m b))
  ∧ (∀ (c : Config) (m : Fp) (k : Coef) (n : BitVec 7) (x y z : F32), m.ftz = true →
    fIsSubnormal (sin2pi c m x) = false ∧ fIsSubnormal (notefreq c m n) = false
    ∧ fIsSubnormal (tan32 c m x) = false
    ∧ fIsSubnormal (svfCoef c m x y z).g = false ∧ fIsSubnormal (svfCoef c m x y z).r2 = false
    ∧ fIsSubnormal (svfCoef c m x y z).h = false
    ∧ fIsSubnormal (svfStep c m k x y z).1 = false ∧ fIsSubnormal (svfStep c m k x y z).2.1 = false
    ∧ fIsSubnormal (svfStep c m k x y z).2.2 = false
    ∧ sin2pi c m x = sin2pi c m (fFlush m x) ∧ tan32 c m x = tan32 c m (fFlush m x)
    ∧ svfCoef c m x y z = svfCoef c m (fFlush m x) (fFlush m y) (fFlush m z)
    ∧ svfStep c m k x y z = svfStep c m (flushCoef m k) (fFlush m x) (fFlush m y) (fFlush m z))
  ∧ ∀ (m : Fp) (a : F32), m.ftz = false → fFlush m a = a

/-- The default `SIN2PI` on a phase: `+0.0` at `+0.0`, and never outside `[-1, 1]` (rule R133 (a), (b)), so every
configuration with it has an admissible `SIN2PI`. -/
def Obligations.DefaultSineIsBounded : Prop :=
  (∀ (c : Config) (m : Fp), c.numSin = .spec →
    sin2pi c m fZero = fZero
    ∧ ∀ p : F32, fPhase p → fle fNegOne (sin2pi c m p) = true ∧ fle (sin2pi c m p) fOne = true)
  ∧ ∀ c : Config, c.numSin = .spec → SineOk c

/-- The default `NOTEFREQ`: 440.0 for note 69, finite and positive, strictly increasing, and an octave is an exact
doubling (rule R133 (c), (d), (e)), so it is admissible; and under every admissible `NOTEFREQ` a note started on a
Voice with a finite positive sample rate has the quotient as its increment, never a free value (rule R157 (a)). -/
def Obligations.DefaultNotefreqIsTempered : Prop :=
  (∀ (c : Config) (m : Fp), c.numFreq = .spec →
    notefreq c m 69#7 = 0x43DC0000#32
    ∧ (∀ n : BitVec 7, fFinitePos (notefreq c m n) = true)
    ∧ (∀ n k : BitVec 7, n.toNat < k.toNat → flt (notefreq c m n) (notefreq c m k) = true)
    ∧ ∀ n k : BitVec 7, k.toNat = n.toNat + 12 → fMag (notefreq c m k) = 2 * fMag (notefreq c m n))
  ∧ (∀ c : Config, c.numFreq = .spec → NotesOk c)
  ∧ ∀ (s : State) (v : BitVec 8) (n : BitVec 7), s.Inv → s.voiceExists v = true → NotesOk s.cfg →
    fFinitePos (s.voice v.toNat).osc.sr = true →
    ∃ t, exec (.vStart v n) s = .next t
      ∧ (t.voice v.toNat).osc.inc = fdiv s.fp (notefreq s.cfg s.fp n) (s.voice v.toNat).osc.sr

/-- The default `SVF_STEP` keeps a silent filter silent, for every finite coefficient set whose `g + R2` does not overflow
(rule R133 (g), whose words do not exclude the overflow; assumption 12), so it is admissible; and a configuration
in range with the default `NUM` is an instance of the core. -/
def Obligations.SilentFilterStaysSilent : Prop :=
  (∀ (c : Config) (m : Fp) (k : Coef) (x s1 s2 : F32), c.numStep = .spec →
    fIsFinite k.g = true → fIsFinite k.r2 = true → fIsFinite k.h = true →
    fIsFinite (fadd (m.sub 4) k.g k.r2) = true →
    fIsZero x = true → fIsZero s1 = true → fIsZero s2 = true →
    fIsZero (svfStep c m k x s1 s2).1 = true ∧ fIsZero (svfStep c m k x s1 s2).2.1 = true
    ∧ fIsZero (svfStep c m k x s1 s2).2.2 = true)
  ∧ (∀ c : Config, c.numStep = .spec → SilentOk c)
  ∧ ∀ c : Config, c.wf = true → c.numSin = .spec → c.numFreq = .spec → c.numStep = .spec → c.Instance

/- ## Oscillator -/

/-- `OSC.NEXT` (rules R155, R156): the sample at the current phase goes to `R0`, then the phase advances by the increment
and wraps by one subtraction; nothing else changes. -/
def Obligations.OscNextReadsThenAdvances : Prop :=
  ∀ (s : State) (v : BitVec 8), s.voiceExists v = true →
    let x := s.voice v.toNat
    let p := fadd (s.fp.sub 1) x.osc.phase x.osc.inc
    let p' := if fge p fOne then fsub (s.fp.sub 2) p fOne else p
    let out := match x.osc.wave with
      | .sine => sin2pi s.cfg ((s.fp.sub 0).sub 0) x.osc.phase
      | .saw => fsub ((s.fp.sub 0).sub 1) (fmul ((s.fp.sub 0).sub 2) fTwo x.osc.phase) fOne
      | .square => if flt x.osc.phase fHalf then fOne else fNegOne
    exec (.oscNext v) s = .next { s with
      voices := s.voices.set v.toNat { x with osc := { x.osc with phase := p' } }, r0 := out }

/-- `OSC.SETWAVE` (rule R151) and `OSC.RESET` (rule R154). -/
def Obligations.OscSetwaveAndReset : Prop :=
  (∀ (s : State) (v : BitVec 8) (wsel : BitVec 2) (w : Waveform), s.voiceExists v = true →
    (wsel = 0#2 ∧ w = .sine ∨ wsel = 1#2 ∧ w = .saw ∨ wsel = 2#2 ∧ w = .square) →
    let x := s.voice v.toNat
    exec (.oscSetwave v wsel) s
      = .next { s with voices := s.voices.set v.toNat { x with osc := { x.osc with wave := w } } })
  ∧ (∀ (s : State) (v : BitVec 8), s.voiceExists v = true →
    exec (.oscSetwave v 3#2) s = .next { s with
      err := { s.err with operand := true }, errcause := 2#32, errcmd := s.cmd, busy := false })
  ∧ ∀ (s : State) (v : BitVec 8), s.voiceExists v = true →
    let x := s.voice v.toNat
    exec (.oscReset v) s
      = .next { s with voices := s.voices.set v.toNat { x with osc := { x.osc with phase := 0x00000000#32 } } }

/-- `OSC.SETFREQ` and `OSC.SETSR` (rules R150, R152, R153): the operand is stored and the increment becomes the quotient,
or a free value unless both are finite and positive (rule R157 (a); assumption 2). -/
def Obligations.OscSettersRecomputeIncrement : Prop :=
  ∀ (s : State) (v : BitVec 8), s.voiceExists v = true →
    let x := s.voice v.toNat
    (let inc := if fFinitePos s.a0 && fFinitePos x.osc.sr then fdiv s.fp s.a0 x.osc.sr
                else Config.freeInc s.fp.path
     exec (.oscSetfreq v) s = .next { s with
       voices := s.voices.set v.toNat { x with osc := { x.osc with freq := s.a0, inc := inc } } })
    ∧ (let inc := if fFinitePos x.osc.freq && fFinitePos s.a0 then fdiv s.fp x.osc.freq s.a0
                  else Config.freeInc s.fp.path
       exec (.oscSetsr v) s = .next { s with
         voices := s.voices.set v.toNat { x with osc := { x.osc with sr := s.a0, inc := inc } } })

/-- With `0 < inc < 1` and `0 <= phase < 1` before a sample, `0 <= phase < 1` after it (rules R32 (i), R157 (b)). -/
def Obligations.PhaseStaysInUnitInterval : Prop :=
  ∀ (m : Fp) (phase inc : F32), fPhase phase → flt fZero inc = true → flt inc fOne = true →
    fPhase (phaseNext m phase inc)

/-- Saw does not fall within a period and stays in `[-1, 1)`; Square is 1 on the first half of the period and -1 on the
second (rules R156, R158 (c), (d)). -/
def Obligations.SawRisesAndSquareHalves : Prop :=
  (∀ (c : Config) (m : Fp) (p q : F32), fPhase p → fPhase q → flt p q = true →
    fle (wave c m .saw p) (wave c m .saw q) = true)
  ∧ (∀ (c : Config) (m : Fp) (p : F32), fPhase p →
    fle fNegOne (wave c m .saw p) = true ∧ flt (wave c m .saw p) fOne = true)
  ∧ ∀ (c : Config) (m : Fp) (p : F32), fPhase p →
    (flt p fHalf = true → wave c m .square p = fOne) ∧ (fge p fHalf = true → wave c m .square p = fNegOne)

/- ## Envelope -/

/-- `ENV.NEXT` (rules R170, R173, R180), stage by stage; the level after the advance goes to `R0`. -/
def Obligations.EnvNextFollowsStages : Prop :=
  ∀ (s : State) (v : BitVec 8), s.voiceExists v = true →
    let x := s.voice v.toNat
    let e := x.env
    let rate := fun sec => fdiv (s.fp.sub 0) fOne (fmul (s.fp.sub 1) sec e.sr)
    let up := fadd (s.fp.sub 2) e.level (rate e.a)
    let down := fsub (s.fp.sub 2) e.level (rate e.d)
    let out := fsub (s.fp.sub 2) e.level (rate e.r)
    let e' : Env := match e.stage with
      | .idle => e
      | .attack =>
        if fge up fOne then
          if feq e.d fZero then { e with level := e.s, stage := .sustain }
          else { e with level := fOne, stage := .decay }
        else { e with level := up }
      | .decay => if fle down e.s then { e with level := e.s, stage := .sustain } else { e with level := down }
      | .sustain => e
      | .release => if fle out fZero then { e with level := fZero, stage := .idle } else { e with level := out }
    exec (.envNext v) s
      = .next { s with voices := s.voices.set v.toNat { x with env := e' }, r0 := e'.level }

/-- `ENV.NOTEON`, `ENV.NOTEOFF`, `ENV.SETPARAMS`, `ENV.SETSR` (rules R171, R172, R174, R175). -/
def Obligations.EnvNotesAndSetters : Prop :=
  ∀ (s : State) (v : BitVec 8), s.voiceExists v = true →
    let x := s.voice v.toNat
    exec (.envNoteon v) s
      = .next { s with voices := s.voices.set v.toNat { x with env := { x.env with stage := .attack } } }
    ∧ (x.env.stage ≠ .idle → exec (.envNoteoff v) s
        = .next { s with voices := s.voices.set v.toNat { x with env := { x.env with stage := .release } } })
    ∧ (x.env.stage = .idle → exec (.envNoteoff v) s = .next { s with voices := s.voices.set v.toNat x })
    ∧ exec (.envSetparams v) s = .next { s with
        voices := s.voices.set v.toNat
          { x with env := { x.env with a := s.a0, d := s.a1, s := s.a2, r := s.a3 } } }
    ∧ exec (.envSetsr v) s
        = .next { s with voices := s.voices.set v.toNat { x with env := { x.env with sr := s.a0 } } }

/-- `ENV.ISACTIVE`, `ENV.GETLEVEL`, `ENV.GETSTAGE` (rules R176, R177, R178, R43): a value in `R0`, nothing else. -/
def Obligations.EnvQueriesReturnState : Prop :=
  ∀ (s : State) (v : BitVec 8), s.voiceExists v = true →
    let e := (s.voice v.toNat).env
    exec (.envIsactive v) s = .next { s with r0 := if e.stage = .idle then 0#32 else 1#32 }
    ∧ exec (.envGetlevel v) s = .next { s with r0 := e.level }
    ∧ exec (.envGetstage v) s = .next { s with r0 :=
        match e.stage with
        | .idle => 0#32
        | .attack => 1#32
        | .decay => 2#32
        | .sustain => 3#32
        | .release => 4#32 }

/-- The level stays in `[0, 1]` (rules R34 (i), R182 (a)). The premise on the stage times is that they are finite and
their sign bit is 0: a time of `-0.0`, which rule R318 (c) shows to break the invariant, is not covered. -/
def Obligations.EnvLevelStaysInUnitInterval : Prop :=
  ∀ (m : Fp) (e : Env), fUnit e.level → fUnit e.s → fFinitePos e.sr = true →
    (∀ t, t = e.a ∨ t = e.d ∨ t = e.r → fIsFinite t = true ∧ fSign t = false) →
    fUnit (envNext m e).level

/-- A stage of time `+0.0` completes in its first sample; a Decay of time 0 completes in the sample in which Attack does
(rules R170, R180). -/
def Obligations.ZeroTimeStagesCompleteAtOnce : Prop :=
  ∀ (m : Fp) (e : Env), fUnit e.level → fFinitePos e.sr = true →
    (e.stage = .attack → e.a = fZero → feq e.d fZero = true →
      envNext m e = { e with level := e.s, stage := .sustain })
    ∧ (e.stage = .attack → e.a = fZero → feq e.d fZero = false →
      envNext m e = { e with level := fOne, stage := .decay })
    ∧ (e.stage = .decay → e.d = fZero → fUnit e.s → envNext m e = { e with level := e.s, stage := .sustain })
    ∧ (e.stage = .release → e.r = fZero → envNext m e = { e with level := fZero, stage := .idle })

/- ## Filter -/

/-- `FLT.PREPARE` (rule R200): with legal arguments the three values are stored, the states zeroed and the filter
prepared; otherwise `BadOperand` and nothing written. -/
def Obligations.FltPrepareChecksAndStores : Prop :=
  ∀ (s : State) (v : BitVec 8), s.voiceExists v = true →
    let x := s.voice v.toNat
    let ok := fIsFinite s.a0 && flt fZero s.a0 && decide (1 ≤ s.a1.toNat) && decide (s.a1.toNat ≤ s.cfg.capBlock)
      && decide (1 ≤ s.a2.toNat) && decide (s.a2.toNat ≤ s.cfg.capChan)
    (ok = true → exec (.fltPrepare v) s = .next { s with
      voices := s.voices.set v.toNat { x with flt := { x.flt with
        sr := s.a0, maxblock := s.a1, nchan := s.a2, prepared := true
        s1 := List.replicate s.cfg.capChan fZero, s2 := List.replicate s.cfg.capChan fZero } } })
    ∧ (ok = false → exec (.fltPrepare v) s = .next { s with
        err := { s.err with operand := true }, errcause := 2#32, errcmd := s.cmd, busy := false })

/-- `FLT.RESET`, `FLT.SETCUTOFF`, `FLT.SETRES` (rules R201, R202, R203). -/
def Obligations.FltResetAndSetters : Prop :=
  ∀ (s : State) (v : BitVec 8), s.voiceExists v = true →
    let x := s.voice v.toNat
    exec (.fltReset v) s = .next { s with
      voices := s.voices.set v.toNat { x with flt := { x.flt with
        s1 := List.replicate s.cfg.capChan fZero, s2 := List.replicate s.cfg.capChan fZero } } }
    ∧ exec (.fltSetcutoff v) s
        = .next { s with voices := s.voices.set v.toNat { x with flt := { x.flt with cutoff := s.a0 } } }
    ∧ exec (.fltSetres v) s
        = .next { s with voices := s.voices.set v.toNat { x with flt := { x.flt with q := s.a0 } } }

/-- `FLT.PROCESS` on a prepared Voice and a written region (rules R204, R205): it completes; each channel runs the
recurrence `SVF_STEP` over its samples in place, from its own pair of states, with one coefficient set for all;
and nothing else changes. -/
def Obligations.FltProcessRunsRecurrence : Prop :=
  ∀ (s : State) (v : BitVec 8), s.Inv → s.voiceExists v = true →
    let x := s.voice v.toNat
    let f := x.flt
    let start := s.a0.toNat
    let num := s.a1.toNat
    let nc := f.nchan.toNat
    let coef := svfCoef s.cfg (s.fp.sub 0) f.cutoff f.q f.sr
    f.prepared = true → start + num ≤ f.maxblock.toNat → s.regionWritten .scr nc start num = true →
    ∃ t g, exec (.fltProcess v) s = .next t
      ∧ SameHost s t ∧ t.r0 = s.r0 ∧ t.pool = s.pool ∧ t.events = s.events
      ∧ SameVoicesBut v.toNat s t ∧ t.voice v.toNat = { x with flt := g }
      ∧ g = { f with s1 := g.s1, s2 := g.s2 }
      ∧ SameMem .dest s t ∧ SameMemOutside .scr nc start num s t
      ∧ (∀ c, nc ≤ c → g.s1.getD c fZero = f.s1.getD c fZero ∧ g.s2.getD c fZero = f.s2.getD c fZero)
      ∧ ∀ (c : Nat) (y a b : Nat → F32), c < nc →
          a 0 = f.s1.getD c fZero → b 0 = f.s2.getD c fZero →
          (∀ k, k < num → ∃ w, s.scr.read (sampleAddr s.cfg c (start + k)) = some w
            ∧ svfStep s.cfg (((s.fp.sub 1).sub c).sub (start + k)) coef w (a k) (b k)
                = (y k, a (k + 1), b (k + 1))) →
          (∀ k, k < num → t.scr.read (sampleAddr s.cfg c (start + k)) = some (y k))
          ∧ g.s1.getD c fZero = a num ∧ g.s2.getD c fZero = b num

/- ## Voice -/

/-- `V.START` (rules R220, R222, R262): frequency, increment, phase, stage, active flag, note and timestamp; the counter
grows by one; nothing else changes, the level and the filter among it. The increment is free while the sample rate
is not finite and positive (assumption 2). `startNote` is the same for the pool. -/
def Obligations.VStartBeginsNote : Prop :=
  ∀ (s : State) (v : BitVec 8) (n : BitVec 7), s.voiceExists v = true →
    let x := s.voice v.toNat
    let hz := notefreq s.cfg s.fp n
    let inc := if fFinitePos hz && fFinitePos x.osc.sr then fdiv s.fp hz x.osc.sr else Config.freeInc s.fp.path
    let t : State := { s with
      voices := s.voices.set v.toNat { x with
        osc := { x.osc with freq := hz, inc := inc, phase := 0x00000000#32 }
        env := { x.env with stage := .attack }
        active := true, note := some n, ts := s.pool.tsctr }
      pool := { s.pool with tsctr := s.pool.tsctr + 1#64 } }
    exec (.vStart v n) s = .next t ∧ startNote s.fp v.toNat n s = t

/-- `V.STOP` (rules R172, R223, R224): the envelope enters Release unless Idle; with `TAILOFF = 0`, or an Idle envelope,
the Voice is freed. -/
def Obligations.VStopReleasesOrFrees : Prop :=
  ∀ (s : State) (v : BitVec 8) (tail : Bool), s.voiceExists v = true →
    let x := s.voice v.toNat
    (x.env.stage ≠ .idle → tail = true → exec (.vStop v tail) s = .next { s with
      voices := s.voices.set v.toNat { x with env := { x.env with stage := .release } } })
    ∧ (x.env.stage ≠ .idle → tail = false → exec (.vStop v tail) s = .next { s with
      voices := s.voices.set v.toNat { x with
        env := { x.env with stage := .release }, active := false, note := none } })
    ∧ (x.env.stage = .idle → exec (.vStop v tail) s = .next { s with
      voices := s.voices.set v.toNat { x with active := false, note := none } })

/-- `V.PREPARE` (rule R227): the three sample rates, the filter's sizes and zeroed states, the ready flag, and the
increment; or `BadOperand` and nothing written. The increment is free while the frequency is not finite and positive
(assumption 2). -/
def Obligations.VPrepareForwardsToUnits : Prop :=
  ∀ (s : State) (v : BitVec 8), s.voiceExists v = true →
    let x := s.voice v.toNat
    let inc := if fFinitePos x.osc.freq && fFinitePos s.a0 then fdiv s.fp x.osc.freq s.a0
               else Config.freeInc s.fp.path
    (prepareArgsOk s.cfg s.a0 s.a1 s.a2 = true → exec (.vPrepare v) s = .next { s with
      voices := s.voices.set v.toNat { x with
        osc := { x.osc with sr := s.a0, inc := inc }
        env := { x.env with sr := s.a0 }
        flt := { x.flt with
          sr := s.a0, maxblock := s.a1, nchan := s.a2, prepared := true
          s1 := List.replicate s.cfg.capChan fZero, s2 := List.replicate s.cfg.capChan fZero }
        ready := true } })
    ∧ (prepareArgsOk s.cfg s.a0 s.a1 s.a2 = false → exec (.vPrepare v) s = .next { s with
        err := { s.err with operand := true }, errcause := 2#32, errcmd := s.cmd, busy := false })

/-- `V.UPDOSC`, `V.UPDFLT`, `V.UPDADSR` (rules R228, R229, R230). -/
def Obligations.VUpdatesWriteParameters : Prop :=
  ∀ (s : State) (v : BitVec 8) (widx : BitVec 16), s.voiceExists v = true →
    let x := s.voice v.toNat
    let w := if widx = 0#16 then .sine else if widx = 1#16 then .saw else if widx = 2#16 then .square
             else s.cfg.defaultWave
    exec (.vUpdosc v widx) s
      = .next { s with voices := s.voices.set v.toNat { x with osc := { x.osc with wave := w } } }
    ∧ exec (.vUpdflt v) s = .next { s with
        voices := s.voices.set v.toNat { x with flt := { x.flt with cutoff := s.a0, q := s.a1 } } }
    ∧ exec (.vUpdadsr v) s = .next { s with
        voices := s.voices.set v.toNat
          { x with env := { x.env with a := s.a0, d := s.a1, s := s.a2, r := s.a3 } } }

/-- `V.QUERY` (rules R102, R231): the packed fields of the Voice in `R0`, nothing else. -/
def Obligations.VQueryPacksFields : Prop :=
  ∀ (s : State) (v : BitVec 8), s.voiceExists v = true →
    let x := s.voice v.toNat
    ∃ w : Word, exec (.vQuery v) s = .next { s with r0 := w }
      ∧ w.extractLsb' 0 7 = x.note.getD 0#7
      ∧ w.getLsbD 7 = x.note.isSome ∧ w.getLsbD 8 = x.active ∧ w.getLsbD 9 = x.ready
      ∧ (w.extractLsb' 10 3).toNat
          = (match x.env.stage with | .idle => 0 | .attack => 1 | .decay => 2 | .sustain => 3 | .release => 4)
      ∧ (w.extractLsb' 13 2).toNat = (match x.osc.wave with | .sine => 0 | .saw => 1 | .square => 2)
      ∧ w.getLsbD 15 = x.flt.prepared ∧ w.extractLsb' 16 16 = 0#16

/-- `V.RENDER` of a ready, active Voice over a `DEST` region that holds values (rules R225, R226): it completes after `w`
samples, at the first sample whose envelope is Idle or at the end; each channel of `SCR` then holds the filtered
range of the samples `fmul(OscNext, EnvNext)` added to silence; `DEST` is only added to, by those; phase, envelope
and filter states follow; the Voice is freed exactly if its envelope ended the loop; nothing else changes. -/
def Obligations.VRenderMixesAdditively : Prop :=
  ∀ (s : State) (v : BitVec 8), s.Inv → s.voiceExists v = true →
    let x := s.voice v.toNat
    let start := s.a0.toNat
    let num := s.a1.toNat
    let nc := x.flt.nchan.toNat
    let m := s.fp
    let sound := soundState s.cfg (m.sub 0) start x.osc x.env
    let coef := svfCoef s.cfg ((m.sub 1).sub 0) x.flt.cutoff x.flt.q x.flt.sr
    x.ready = true → x.active = true → start + num ≤ x.flt.maxblock.toNat →
    s.regionWritten .dest nc start num = true →
    ∃ t w g, exec (.vRender v) s = .next t
      ∧ SameHost s t ∧ t.r0 = s.r0 ∧ t.pool = s.pool ∧ t.events = s.events ∧ SameVoicesBut v.toNat s t
      ∧ w ≤ num ∧ (∀ k, 0 < k → k < w → (sound k).2.stage ≠ .idle)
      ∧ (w < num → 0 < w ∧ (sound w).2.stage = .idle)
      ∧ (let ended := decide (0 < w) && decide ((sound w).2.stage = .idle)
         t.voice v.toNat = { x with
           osc := (sound w).1, env := (sound w).2, flt := g
           active := !ended, note := if ended then none else x.note })
      ∧ g = { x.flt with s1 := g.s1, s2 := g.s2 }
      ∧ (∀ c, nc ≤ c → g.s1.getD c fZero = x.flt.s1.getD c fZero ∧ g.s2.getD c fZero = x.flt.s2.getD c fZero)
      ∧ (let len := if s.cfg.filterRange = .full then num else w
         SameMemOutside .scr nc start num s t ∧ SameMemOutside .dest nc start len s t
         ∧ ∀ c, c < nc →
           let input := fun k =>
             if k < w then
               fadd ((((m.sub 0).sub (start + k)).sub 3).sub c) fZero
                 (soundSample s.cfg (m.sub 0) start x.osc x.env k)
             else fZero
           let mc := ((m.sub 1).sub 1).sub c
           let a := x.flt.s1.getD c fZero
           let b := x.flt.s2.getD c fZero
           (∀ k, k < len →
             let y := svfOutput s.cfg mc coef start input a b k
             t.scr.read (sampleAddr s.cfg c (start + k)) = some y
             ∧ ∃ d, s.dest.read (sampleAddr s.cfg c (start + k)) = some d
               ∧ t.dest.read (sampleAddr s.cfg c (start + k))
                 = some (fadd (((m.sub 2).sub c).sub (start + k)) d y))
           ∧ (∀ k, len ≤ k → k < num → t.scr.read (sampleAddr s.cfg c (start + k)) = some fZero)
           ∧ (g.s1.getD c fZero, g.s2.getD c fZero) = svfStates s.cfg mc coef start input a b len)

/- ## Pool -/

/-- `P.PREPARE` (rule R250): the pool's values and ready flag and every Voice prepared, nothing else; or `BadOperand` and
nothing written. Increments as in assumption 2. -/
def Obligations.PPreparePreparesEveryVoice : Prop :=
  (∀ s : State, s.voices.length = s.cfg.nvoices → prepareArgsOk s.cfg s.a0 s.a1 s.a2 = true →
    ∃ t, exec .pPrepare s = .next t
      ∧ t.pool = { s.pool with sr := s.a0, maxblock := s.a1, nchan := s.a2, ready := true }
      ∧ SameHost s t ∧ t.r0 = s.r0 ∧ t.events = s.events ∧ SameMem .dest s t ∧ SameMem .scr s t
      ∧ t.voices.length = s.voices.length
      ∧ ∀ v, v < s.cfg.nvoices →
          let x := s.voice v
          let inc := if fFinitePos x.osc.freq && fFinitePos s.a0 then fdiv (s.fp.sub v) x.osc.freq s.a0
                     else Config.freeInc (s.fp.sub v).path
          t.voice v = { x with
            osc := { x.osc with sr := s.a0, inc := inc }
            env := { x.env with sr := s.a0 }
            flt := { x.flt with
              sr := s.a0, maxblock := s.a1, nchan := s.a2, prepared := true
              s1 := List.replicate s.cfg.capChan fZero, s2 := List.replicate s.cfg.capChan fZero }
            ready := true })
  ∧ ∀ s : State, prepareArgsOk s.cfg s.a0 s.a1 s.a2 = false → exec .pPrepare s = .next { s with
      err := { s.err with operand := true }, errcause := 2#32, errcmd := s.cmd, busy := false }

/-- `P.NOTEON` (rules R251, R253): retrigger the lowest Voice that holds the note; else start the lowest free Voice; else
free the Voice that `StealChoice` names and start it. `startNote` is what `V.START` does (VStartBeginsNote). -/
def Obligations.PNoteonAllocates : Prop :=
  ∀ (s : State) (n : BitVec 7),
    (∀ v, LowestVoice s (fun x => x.holds n) v → exec (.pNoteon n) s = .next (startNote s.fp v n s))
    ∧ (∀ v, (∀ x ∈ s.voices, x.holds n = false) → LowestVoice s (fun x => !x.active) v →
        exec (.pNoteon n) s = .next (startNote s.fp v n s))
    ∧ ((∀ x ∈ s.voices, x.holds n = false ∧ x.active = true) →
        let b := stealChoice s
        exec (.pNoteon n) s = .next (startNote s.fp b n
          { s with voices := s.voices.set b { s.voice b with active := false, note := none } }))

/-- `StealChoice` (rule R252): a Voice in Release if there is one, and the least of its class by level, then timestamp,
then index. -/
def Obligations.StealChoiceIsLeast : Prop :=
  ∀ s : State, 1 ≤ s.cfg.nvoices → s.voices.length = s.cfg.nvoices →
    (∀ x ∈ s.voices, fIsNaN x.env.level = false) →
    let inRelease := fun u => u < s.cfg.nvoices ∧ (s.voice u).env.stage = .release
    let b := stealChoice s
    b < s.cfg.nvoices
    ∧ ((∃ u, inRelease u) → inRelease b)
    ∧ ∀ u, u < s.cfg.nvoices → u ≠ b → ((∃ w, inRelease w) → inRelease u) →
        StealsBefore (s.voice b) b (s.voice u) u

/-- `P.NOTEOFF` (rule R254): the lowest Voice that holds the note is stopped as `V.STOP` stops it; if none holds it
nothing happens. -/
def Obligations.PNoteoffRoutes : Prop :=
  ∀ (s : State) (n : BitVec 7) (tail : Bool),
    (∀ v, LowestVoice s (fun x => x.holds n) v →
      let x := s.voice v
      let e := if x.env.stage = .idle then x.env else { x.env with stage := .release }
      let y := if tail = false ∨ x.env.stage = .idle then { x with env := e, active := false, note := none }
               else { x with env := e }
      exec (.pNoteoff n tail) s = .next { s with voices := s.voices.set v y })
    ∧ ((∀ x ∈ s.voices, x.holds n = false) → exec (.pNoteoff n tail) s = .next s)

/-- `P.EVENT` (rule R255): one record at the tail of the queue, or `EventQueueFull` (cause 5) and the queue unchanged. -/
def Obligations.PEventQueuesOrRefuses : Prop :=
  ∀ (s : State) (kind : EventKind) (n : BitVec 7) (tail : Bool), s.events.length ≤ s.cfg.evqCap →
    (s.events.length ≠ s.cfg.evqCap → exec (.pEvent kind n tail) s
      = .next { s with events := s.events ++ [{ kind := kind, note := n, tail := tail }] })
    ∧ (s.events.length = s.cfg.evqCap → exec (.pEvent kind n tail) s = .next { s with
        err := { s.err with evqFull := true }, errcause := 5#32, errcmd := s.cmd, busy := false })

/-- `P.RENDER` on a ready pool over a block of `DEST` that holds values completes (rules R256 to R260). The snapshot is
latched and applied, the queue is dispatched and ends empty, the ready Voices render in ascending order (`r v` is the
state before Voice `v`), and each sample of the block is multiplied once by `S[7]`; at the end every Voice holds the
snapshot's parameters, and nothing outside the Voices, the snapshot, the counter and the block of the two memories
has changed. The second part says what dispatching and rendering are: each record, in queue order, acts as `P.NOTEON`
or `P.NOTEOFF`, and a ready Voice renders as `V.RENDER` does. -/
def Obligations.PRenderCompletesBlock : Prop :=
  (∀ s : State, s.Inv → s.pool.ready = true → s.a0.toNat ≤ s.pool.maxblock.toNat →
    s.regionWritten .dest s.renderChans 0 s.a0.toNat = true →
    ∃ (t : State) (r : Nat → State), exec .pRender s = .next t
      ∧ t.events = [] ∧ SameRecord s t ∧ SameOperands s t ∧ t.r0 = s.r0
      ∧ t.cfg = s.cfg ∧ t.moves = s.moves ∧ t.rdata = s.rdata ∧ t.draws = s.draws
      ∧ t.pool = { s.pool with tsctr := t.pool.tsctr } ∧ t.voices.length = s.voices.length
      ∧ t.snap = (latchSnapshot s).snap
      ∧ (s.during = [] → t.params = s.params ∧ t.snap = s.params ∧ t.during = [])
      ∧ SameMemOutside .dest s.renderChans 0 s.a0.toNat s t
      ∧ SameMemOutside .scr s.renderChans 0 s.a0.toNat s t
      ∧ (∀ x ∈ t.voices, x.osc.wave = waveFromIndex s.cfg t.snap.waveform
          ∧ x.flt.cutoff = t.snap.cutoff ∧ x.flt.q = t.snap.resonance
          ∧ x.env.a = t.snap.attack ∧ x.env.d = t.snap.decay ∧ x.env.s = t.snap.sustain
          ∧ x.env.r = t.snap.release)
      ∧ r 0 = dispatchEvents (s.fp.sub 0) (applySnapshot (latchSnapshot s))
      ∧ (∀ v, v < s.cfg.nvoices →
          renderIfReady ((s.fp.sub 1).sub v) s.a0.toNat v (r v) = .ok (r (v + 1)))
      ∧ (let u := r s.cfg.nvoices
         t = { u with dest := t.dest }
         ∧ SameMemOutside .dest s.pool.nchan.toNat 0 s.a0.toNat u t
         ∧ ∀ c i, c < s.pool.nchan.toNat → i < s.a0.toNat →
             ∃ d, u.dest.read (sampleAddr s.cfg c i) = some d
               ∧ t.dest.read (sampleAddr s.cfg c i)
                 = some (fmul (((s.fp.sub 2).sub c).sub i) d t.snap.masterVol)))
  ∧ (∀ (m : Fp) (u : State) (i : Nat) (e : EventRec) (rest : List EventRec),
      dispatchEvents m u = dispatchList m 0 u.events { u with events := [] }
      ∧ dispatchList m i [] u = u
      ∧ dispatchList m i (e :: rest) u = dispatchList m (i + 1) rest (dispatchEvent (m.sub i) e u)
      ∧ (e.kind = .noteOn → exec (.pNoteon e.note) u = .next (dispatchEvent u.fp e u))
      ∧ (e.kind = .noteOff → exec (.pNoteoff e.note e.tail) u = .next (dispatchEvent m e u)))
  ∧ ∀ (m : Fp) (num : Nat) (u : State) (v : BitVec 8), u.voiceExists v = true →
    let x := u.voice v.toNat
    (x.ready = false → renderIfReady m num v.toNat u = .ok u)
    ∧ (x.ready = true → renderIfReady m num v.toNat u = renderVoice m v.toNat 0 num u)
    ∧ (x.ready = true → u.a0.toNat = 0 → u.a1.toNat = num → num ≤ x.flt.maxblock.toNat →
        exec (.vRender v) u = finish (renderIfReady u.fp num v.toNat u))

/-- A block with no active Voice and no queued event against a silent buffer leaves it silent, for a finite master volume
that is not negative (rule R263 (b)). -/
def Obligations.SilentBlockStaysSilent : Prop :=
  ∀ s : State, s.Inv → s.pool.ready = true → s.a0.toNat ≤ s.pool.maxblock.toNat → s.during = [] →
    s.events = [] → (∀ x ∈ s.voices, x.active = false) →
    fIsFinite s.params.masterVol = true → fSign s.params.masterVol = false →
    (∀ c i, c < s.pool.nchan.toNat → i < s.a0.toNat → s.dest.read (sampleAddr s.cfg c i) = some fZero) →
    ∃ t, exec .pRender s = .next t ∧ SameMem .dest s t ∧ SameMem .scr s t
      ∧ ∀ x ∈ t.voices, x.active = false

/-- `LatchSnapshot` among control-host writes (rules R66, R257, U10): each `S[k]` is the old `P[k]` or a word that a write
of that register brought before its latch read, never a mixture; and with no such write it is `P[k]`. -/
def Obligations.LatchTakesOldOrNewValue : Prop :=
  ∀ (s : State) (k : Fin 8),
    ((latchSnapshot s).snap.get k = s.params.get k
      ∨ ∃ x ∈ s.during, x.k = k ∧ x.slot ≤ k.val ∧ (latchSnapshot s).snap.get k = x.w)
    ∧ ((∀ x ∈ s.during, x.k = k → k.val < x.slot) → (latchSnapshot s).snap.get k = s.params.get k)
    ∧ ∀ x, s.during = [x] → x.k = k → x.slot ≤ k.val → (latchSnapshot s).snap.get k = x.w

/-- `ApplySnapshot` reaches every Voice, active or free, and writes the seven per-Voice parameters and nothing else
(rules R228 to R230, R256). -/
def Obligations.ApplySnapshotReachesEveryVoice : Prop :=
  ∀ s : State, s.voices.length = s.cfg.nvoices →
    applySnapshot s = { s with voices := (applySnapshot s).voices }
    ∧ (applySnapshot s).voices.length = s.voices.length
    ∧ ∀ v, v < s.cfg.nvoices →
        let x := s.voice v
        let w := if s.snap.waveform = 0#32 then .sine else if s.snap.waveform = 1#32 then .saw
                 else if s.snap.waveform = 2#32 then .square else s.cfg.defaultWave
        (applySnapshot s).voice v = { x with
          osc := { x.osc with wave := w }
          flt := { x.flt with cutoff := s.snap.cutoff, q := s.snap.resonance }
          env := { x.env with a := s.snap.attack, d := s.snap.decay, s := s.snap.sustain, r := s.snap.release } }

/- ## Frames and whole-machine rules -/

/-- The frame of the commands that act inside one Voice: that Voice, and `R0` for `OSC.NEXT` and `ENV.NEXT`, or an error
and nothing but its record. -/
def Obligations.UnitCommandsTouchOneVoice : Prop :=
  ∀ (s t : State) (v : BitVec 8) (wsel : BitVec 2) (widx : BitVec 16) (tail : Bool) (i : Instr),
    i ∈ [.oscSetwave v wsel, .oscSetfreq v, .oscSetsr v, .oscReset v, .oscNext v, .envNoteon v, .envNoteoff v,
      .envNext v, .envSetparams v, .envSetsr v, .fltPrepare v, .fltReset v, .fltSetcutoff v, .fltSetres v,
      .vPrepare v, .vStop v tail, .vUpdosc v widx, .vUpdflt v, .vUpdadsr v] →
    exec i s = .next t →
    t = raise .badOperand s
    ∨ (SameOutsideVoices s t ∧ SameVoicesBut v.toNat s t ∧ (i.returnsValue = false → t.r0 = s.r0))

/-- A unit's commands move that unit only: `OSC.*` no envelope, filter or Voice field, `ENV.*` no oscillator, filter or
Voice field, `FLT.*` no oscillator, envelope or Voice field. -/
def Obligations.UnitCommandsKeepOtherUnits : Prop :=
  ∀ (s t : State) (v : BitVec 8) (wsel : BitVec 2) (i : Instr), exec i s = .next t →
    let x := s.voice v.toNat
    let y := t.voice v.toNat
    (i ∈ [.oscSetwave v wsel, .oscSetfreq v, .oscSetsr v, .oscReset v, .oscNext v] →
      y = { x with osc := y.osc })
    ∧ (i ∈ [.envNoteon v, .envNoteoff v, .envNext v, .envSetparams v, .envSetsr v, .envIsactive v,
        .envGetlevel v, .envGetstage v] → y = { x with env := y.env })
    ∧ (i ∈ [.fltPrepare v, .fltReset v, .fltSetcutoff v, .fltSetres v, .fltProcess v] →
        y = { x with flt := y.flt })

/-- A command error (rules R281, R282): its `STATUS` bit, its cause, the word in `CMD`, and the command is complete. -/
def Obligations.RaiseWritesTheRecord : Prop :=
  ∀ s : State,
    raise .illegalCommand s = { s with
      err := { s.err with illegal := true }, errcause := 1#32, errcmd := s.cmd, busy := false }
    ∧ raise .badOperand s = { s with
      err := { s.err with operand := true }, errcause := 2#32, errcmd := s.cmd, busy := false }
    ∧ raise .notPrepared s = { s with
      err := { s.err with notPrep := true }, errcause := 3#32, errcmd := s.cmd, busy := false }
    ∧ raise .range s = { s with
      err := { s.err with range := true }, errcause := 4#32, errcmd := s.cmd, busy := false }
    ∧ raise .eventQueueFull s = { s with
      err := { s.err with evqFull := true }, errcause := 5#32, errcmd := s.cmd, busy := false }

/-- A command either ends with one error and nothing but its record written, or leaves the record alone; `SYS.RESET`, which
clears the record, aside (rules R282, R284). -/
def Obligations.ErrorsAreAllOrNothing : Prop :=
  ∀ (i : Instr) (s t : State), exec i s = .next t → i ≠ .sysReset →
    (∃ e, t = raise e s) ∨ SameRecord s t

/-- The guards in their order (rules R96, R283): a Voice that does not exist before everything else; then readiness; then
the range, whose sum does not wrap. That an empty region starting above `maxblock` is out of range too is the model's
choice (assumption 24). -/
def Obligations.GuardsCheckInOrder : Prop :=
  (∀ (i : Instr) (v : BitVec 8) (s : State), i.voice? = some v → s.cfg.nvoices ≤ v.toNat →
    exec i s = .next (raise .badOperand s))
  ∧ (∀ (s : State) (v : BitVec 8), s.voiceExists v = true →
    let x := s.voice v.toNat
    (x.flt.prepared = false → exec (.fltProcess v) s = .next (raise .notPrepared s))
    ∧ (x.flt.prepared = true → x.flt.maxblock.toNat < s.a0.toNat + s.a1.toNat →
        exec (.fltProcess v) s = .next (raise .range s))
    ∧ (x.ready = false → exec (.vRender v) s = .next (raise .notPrepared s))
    ∧ (x.ready = true → x.flt.maxblock.toNat < s.a0.toNat + s.a1.toNat →
        exec (.vRender v) s = .next (raise .range s))
    ∧ (x.ready = true → s.a0.toNat + s.a1.toNat ≤ x.flt.maxblock.toNat → x.active = false →
        exec (.vRender v) s = .next s))
  ∧ ∀ s : State,
    (s.pool.ready = false → exec .pRender s = .next (raise .notPrepared s))
    ∧ (s.pool.ready = true → s.pool.maxblock.toNat < s.a0.toNat → exec .pRender s = .next (raise .range s))

/-- Every command of an instance completes, and only the three that read sample memory can stop instead, on a word never
written since reset (assumption 7); none forms an address outside the memories and none is refused (rules R21, R69,
R121). R21 stops on a register that holds no value as well; that the model goes on there is its choice (assumptions 1
and 2). -/
def Obligations.CommandsStopOnlyOnUnwritten : Prop :=
  ∀ (i : Instr) (s : State), s.Inv →
    (∃ t, exec i s = .next t)
    ∨ (i.usesMemory = true ∧ ∃ sp a, exec i s = .fault (.unwritten sp a) ∧ (s.mem sp).read a = none)

/-- Every step, whatever the outside world does, keeps the invariant. -/
def Obligations.StepKeepsInvariant : Prop :=
  ∀ s t : State, s.Inv → step s = .next t → t.Inv

/-- Every step keeps `inc = fdiv(freq, sr)` for every Voice whose two operands are finite and positive (rule R32 (ii)). The
two resets keep it by the model's choice: `freq` and `sr` are zero after them, so not positive (assumption 1), where
the spec leaves them without a value. -/
def Obligations.StepKeepsIncrement : Prop :=
  ∀ s t : State, s.IncInv → step s = .next t → t.IncInv

/-- The pool-level commands keep the pool's invariants, as long as the note counter does not reach its end (rules R40,
R261; assumption 10). -/
def Obligations.PoolCommandsKeepPoolInvariant : Prop :=
  ∀ (s t : State) (n : BitVec 7) (tail : Bool) (kind : EventKind) (i : Instr),
    i ∈ [.pNoteon n, .pNoteoff n tail, .pEvent kind n tail, .pRender] →
    s.Inv → s.PoolInv → s.pool.tsctr.toNat + s.events.length + 1 < 2 ^ 64 →
    exec i s = .next t → t.PoolInv

/-- What no command but `SYS.RESET` changes: the configuration, the operand registers, the parameter registers (when the
control host is quiet), a ready flag once set; and, but for the three rendering commands, the sample memories
(rules R22, R37, R39, R46, R47). -/
def Obligations.CommandsLeaveHostStateAlone : Prop :=
  ∀ (i : Instr) (s t : State), exec i s = .next t → i ≠ .sysReset →
    t.cfg = s.cfg ∧ SameOperands s t ∧ (s.during = [] → t.params = s.params)
    ∧ (s.pool.ready = true → t.pool.ready = true)
    ∧ (∀ v, (s.voice v).ready = true → (t.voice v).ready = true)
    ∧ (i.usesMemory = false → SameMem .dest s t ∧ SameMem .scr s t)

/-- `R0` is written only by a command that returns a value and completes without an error (rule R95; `SYS.RESET`, which
takes the value away, aside). -/
def Obligations.ResultRegisterIsKept : Prop :=
  ∀ (i : Instr) (s t : State), exec i s = .next t → i ≠ .sysReset →
    (i.returnsValue = false → t.r0 = s.r0) ∧ ((∃ e, t = raise e s) → t.r0 = s.r0)

/-- The velocity and the sample offset have no effect: the five commands that accept them do the same whatever `A0` and
`A1` hold, and leave both as they are (rules R94, R221). -/
def Obligations.VelocityHasNoEffect : Prop :=
  ∀ (s t : State) (v : BitVec 8) (n : BitVec 7) (tail : Bool) (kind : EventKind) (x y : Word) (i : Instr),
    i ∈ [.vStart v n, .vStop v tail, .pNoteon n, .pNoteoff n tail, .pEvent kind n tail] →
    exec i s = .next t → exec i { s with a0 := x, a1 := y } = .next { t with a0 := x, a1 := y }
end

