-- ==== Sys2Proof/Laws/State.lean ====
section
/-! SUPPORT. One lemma per field per update of the state: no later proof unfolds a record update. -/

namespace Sys2Proof.Machine

@[simp] theorem State.setVoice_cfg (s : State) (v : Nat) (x : Voice) : (s.setVoice v x).cfg = s.cfg := rfl
@[simp] theorem State.setVoice_cmd (s : State) (v : Nat) (x : Voice) : (s.setVoice v x).cmd = s.cmd := rfl
@[simp] theorem State.setVoice_busy (s : State) (v : Nat) (x : Voice) : (s.setVoice v x).busy = s.busy := rfl
@[simp] theorem State.setVoice_err (s : State) (v : Nat) (x : Voice) : (s.setVoice v x).err = s.err := rfl
@[simp] theorem State.setVoice_errcause (s : State) (v : Nat) (x : Voice) : (s.setVoice v x).errcause = s.errcause := rfl
@[simp] theorem State.setVoice_errcmd (s : State) (v : Nat) (x : Voice) : (s.setVoice v x).errcmd = s.errcmd := rfl
@[simp] theorem State.setVoice_a0 (s : State) (v : Nat) (x : Voice) : (s.setVoice v x).a0 = s.a0 := rfl
@[simp] theorem State.setVoice_a1 (s : State) (v : Nat) (x : Voice) : (s.setVoice v x).a1 = s.a1 := rfl
@[simp] theorem State.setVoice_a2 (s : State) (v : Nat) (x : Voice) : (s.setVoice v x).a2 = s.a2 := rfl
@[simp] theorem State.setVoice_a3 (s : State) (v : Nat) (x : Voice) : (s.setVoice v x).a3 = s.a3 := rfl
@[simp] theorem State.setVoice_r0 (s : State) (v : Nat) (x : Voice) : (s.setVoice v x).r0 = s.r0 := rfl
@[simp] theorem State.setVoice_params (s : State) (v : Nat) (x : Voice) : (s.setVoice v x).params = s.params := rfl
@[simp] theorem State.setVoice_snap (s : State) (v : Nat) (x : Voice) : (s.setVoice v x).snap = s.snap := rfl
@[simp] theorem State.setVoice_voices (s : State) (v : Nat) (x : Voice) : (s.setVoice v x).voices = s.voices.set v x := rfl
@[simp] theorem State.setVoice_pool (s : State) (v : Nat) (x : Voice) : (s.setVoice v x).pool = s.pool := rfl
@[simp] theorem State.setVoice_events (s : State) (v : Nat) (x : Voice) : (s.setVoice v x).events = s.events := rfl
@[simp] theorem State.setVoice_dest (s : State) (v : Nat) (x : Voice) : (s.setVoice v x).dest = s.dest := rfl
@[simp] theorem State.setVoice_scr (s : State) (v : Nat) (x : Voice) : (s.setVoice v x).scr = s.scr := rfl
@[simp] theorem State.setVoice_moves (s : State) (v : Nat) (x : Voice) : (s.setVoice v x).moves = s.moves := rfl
@[simp] theorem State.setVoice_during (s : State) (v : Nat) (x : Voice) : (s.setVoice v x).during = s.during := rfl
@[simp] theorem State.setVoice_rdata (s : State) (v : Nat) (x : Voice) : (s.setVoice v x).rdata = s.rdata := rfl
@[simp] theorem State.setVoice_draws (s : State) (v : Nat) (x : Voice) : (s.setVoice v x).draws = s.draws := rfl

@[simp] theorem State.setR0_cfg (s : State) (w : Word) : (s.setR0 w).cfg = s.cfg := rfl
@[simp] theorem State.setR0_cmd (s : State) (w : Word) : (s.setR0 w).cmd = s.cmd := rfl
@[simp] theorem State.setR0_busy (s : State) (w : Word) : (s.setR0 w).busy = s.busy := rfl
@[simp] theorem State.setR0_err (s : State) (w : Word) : (s.setR0 w).err = s.err := rfl
@[simp] theorem State.setR0_errcause (s : State) (w : Word) : (s.setR0 w).errcause = s.errcause := rfl
@[simp] theorem State.setR0_errcmd (s : State) (w : Word) : (s.setR0 w).errcmd = s.errcmd := rfl
@[simp] theorem State.setR0_a0 (s : State) (w : Word) : (s.setR0 w).a0 = s.a0 := rfl
@[simp] theorem State.setR0_a1 (s : State) (w : Word) : (s.setR0 w).a1 = s.a1 := rfl
@[simp] theorem State.setR0_a2 (s : State) (w : Word) : (s.setR0 w).a2 = s.a2 := rfl
@[simp] theorem State.setR0_a3 (s : State) (w : Word) : (s.setR0 w).a3 = s.a3 := rfl
@[simp] theorem State.setR0_r0 (s : State) (w : Word) : (s.setR0 w).r0 = w := rfl
@[simp] theorem State.setR0_params (s : State) (w : Word) : (s.setR0 w).params = s.params := rfl
@[simp] theorem State.setR0_snap (s : State) (w : Word) : (s.setR0 w).snap = s.snap := rfl
@[simp] theorem State.setR0_voices (s : State) (w : Word) : (s.setR0 w).voices = s.voices := rfl
@[simp] theorem State.setR0_pool (s : State) (w : Word) : (s.setR0 w).pool = s.pool := rfl
@[simp] theorem State.setR0_events (s : State) (w : Word) : (s.setR0 w).events = s.events := rfl
@[simp] theorem State.setR0_dest (s : State) (w : Word) : (s.setR0 w).dest = s.dest := rfl
@[simp] theorem State.setR0_scr (s : State) (w : Word) : (s.setR0 w).scr = s.scr := rfl
@[simp] theorem State.setR0_moves (s : State) (w : Word) : (s.setR0 w).moves = s.moves := rfl
@[simp] theorem State.setR0_during (s : State) (w : Word) : (s.setR0 w).during = s.during := rfl
@[simp] theorem State.setR0_rdata (s : State) (w : Word) : (s.setR0 w).rdata = s.rdata := rfl
@[simp] theorem State.setR0_draws (s : State) (w : Word) : (s.setR0 w).draws = s.draws := rfl

@[simp] theorem raise_cfg (e : CmdError) (s : State) : (raise e s).cfg = s.cfg := rfl
@[simp] theorem raise_cmd (e : CmdError) (s : State) : (raise e s).cmd = s.cmd := rfl
@[simp] theorem raise_busy (e : CmdError) (s : State) : (raise e s).busy = false := rfl
@[simp] theorem raise_err (e : CmdError) (s : State) : (raise e s).err = s.err.raised e := rfl
@[simp] theorem raise_errcause (e : CmdError) (s : State) : (raise e s).errcause = e.cause := rfl
@[simp] theorem raise_errcmd (e : CmdError) (s : State) : (raise e s).errcmd = s.cmd := rfl
@[simp] theorem raise_a0 (e : CmdError) (s : State) : (raise e s).a0 = s.a0 := rfl
@[simp] theorem raise_a1 (e : CmdError) (s : State) : (raise e s).a1 = s.a1 := rfl
@[simp] theorem raise_a2 (e : CmdError) (s : State) : (raise e s).a2 = s.a2 := rfl
@[simp] theorem raise_a3 (e : CmdError) (s : State) : (raise e s).a3 = s.a3 := rfl
@[simp] theorem raise_r0 (e : CmdError) (s : State) : (raise e s).r0 = s.r0 := rfl
@[simp] theorem raise_params (e : CmdError) (s : State) : (raise e s).params = s.params := rfl
@[simp] theorem raise_snap (e : CmdError) (s : State) : (raise e s).snap = s.snap := rfl
@[simp] theorem raise_voices (e : CmdError) (s : State) : (raise e s).voices = s.voices := rfl
@[simp] theorem raise_pool (e : CmdError) (s : State) : (raise e s).pool = s.pool := rfl
@[simp] theorem raise_events (e : CmdError) (s : State) : (raise e s).events = s.events := rfl
@[simp] theorem raise_dest (e : CmdError) (s : State) : (raise e s).dest = s.dest := rfl
@[simp] theorem raise_scr (e : CmdError) (s : State) : (raise e s).scr = s.scr := rfl
@[simp] theorem raise_moves (e : CmdError) (s : State) : (raise e s).moves = s.moves := rfl
@[simp] theorem raise_during (e : CmdError) (s : State) : (raise e s).during = s.during := rfl
@[simp] theorem raise_rdata (e : CmdError) (s : State) : (raise e s).rdata = s.rdata := rfl
@[simp] theorem raise_draws (e : CmdError) (s : State) : (raise e s).draws = s.draws := rfl

@[simp] theorem State.setMem_cfg (s : State) (sp : Space) (m : Memory) : (s.setMem sp m).cfg = s.cfg := by
  cases sp <;> rfl
@[simp] theorem State.setMem_cmd (s : State) (sp : Space) (m : Memory) : (s.setMem sp m).cmd = s.cmd := by
  cases sp <;> rfl
@[simp] theorem State.setMem_busy (s : State) (sp : Space) (m : Memory) : (s.setMem sp m).busy = s.busy := by
  cases sp <;> rfl
@[simp] theorem State.setMem_err (s : State) (sp : Space) (m : Memory) : (s.setMem sp m).err = s.err := by
  cases sp <;> rfl
@[simp] theorem State.setMem_errcause (s : State) (sp : Space) (m : Memory) : (s.setMem sp m).errcause = s.errcause := by
  cases sp <;> rfl
@[simp] theorem State.setMem_errcmd (s : State) (sp : Space) (m : Memory) : (s.setMem sp m).errcmd = s.errcmd := by
  cases sp <;> rfl
@[simp] theorem State.setMem_a0 (s : State) (sp : Space) (m : Memory) : (s.setMem sp m).a0 = s.a0 := by
  cases sp <;> rfl
@[simp] theorem State.setMem_a1 (s : State) (sp : Space) (m : Memory) : (s.setMem sp m).a1 = s.a1 := by
  cases sp <;> rfl
@[simp] theorem State.setMem_a2 (s : State) (sp : Space) (m : Memory) : (s.setMem sp m).a2 = s.a2 := by
  cases sp <;> rfl
@[simp] theorem State.setMem_a3 (s : State) (sp : Space) (m : Memory) : (s.setMem sp m).a3 = s.a3 := by
  cases sp <;> rfl
@[simp] theorem State.setMem_r0 (s : State) (sp : Space) (m : Memory) : (s.setMem sp m).r0 = s.r0 := by
  cases sp <;> rfl
@[simp] theorem State.setMem_params (s : State) (sp : Space) (m : Memory) : (s.setMem sp m).params = s.params := by
  cases sp <;> rfl
@[simp] theorem State.setMem_snap (s : State) (sp : Space) (m : Memory) : (s.setMem sp m).snap = s.snap := by
  cases sp <;> rfl
@[simp] theorem State.setMem_voices (s : State) (sp : Space) (m : Memory) : (s.setMem sp m).voices = s.voices := by
  cases sp <;> rfl
@[simp] theorem State.setMem_pool (s : State) (sp : Space) (m : Memory) : (s.setMem sp m).pool = s.pool := by
  cases sp <;> rfl
@[simp] theorem State.setMem_events (s : State) (sp : Space) (m : Memory) : (s.setMem sp m).events = s.events := by
  cases sp <;> rfl
@[simp] theorem State.setMem_moves (s : State) (sp : Space) (m : Memory) : (s.setMem sp m).moves = s.moves := by
  cases sp <;> rfl
@[simp] theorem State.setMem_during (s : State) (sp : Space) (m : Memory) : (s.setMem sp m).during = s.during := by
  cases sp <;> rfl
@[simp] theorem State.setMem_rdata (s : State) (sp : Space) (m : Memory) : (s.setMem sp m).rdata = s.rdata := by
  cases sp <;> rfl
@[simp] theorem State.setMem_draws (s : State) (sp : Space) (m : Memory) : (s.setMem sp m).draws = s.draws := by
  cases sp <;> rfl

@[simp] theorem State.mem_setMem (s : State) (sp : Space) (m : Memory) : (s.setMem sp m).mem sp = m := by
  cases sp <;> rfl

theorem State.mem_setMem_other (s : State) (sp sq : Space) (m : Memory) (h : sq ≠ sp) :
    (s.setMem sp m).mem sq = s.mem sq := by
  cases sp <;> cases sq <;> first | rfl | exact absurd rfl h

@[simp] theorem State.mem_setVoice (s : State) (v : Nat) (x : Voice) (sp : Space) :
    (s.setVoice v x).mem sp = s.mem sp := by
  cases sp <;> rfl

@[simp] theorem State.voice_setMem (s : State) (sp : Space) (m : Memory) (v : Nat) :
    (s.setMem sp m).voice v = s.voice v := by
  cases sp <;> rfl

@[simp] theorem State.voice_setR0 (s : State) (w : Word) (v : Nat) : (s.setR0 w).voice v = s.voice v := rfl

@[simp] theorem State.fp_setVoice (s : State) (v : Nat) (x : Voice) : (s.setVoice v x).fp = s.fp := rfl

/-- A Voice that exists reads back as it was set. -/
theorem State.voice_setVoice_same (s : State) (v : Nat) (x : Voice) (h : v < s.voices.length) :
    (s.setVoice v x).voice v = x := by
  simp [State.voice, State.setVoice, List.getD_eq_getElem?_getD, h]

/-- Setting a Voice leaves the others alone. -/
theorem State.voice_setVoice_other (s : State) (u v : Nat) (x : Voice) (h : u ≠ v) :
    (s.setVoice v x).voice u = s.voice u := by
  simp [State.voice, State.setVoice, List.getD_eq_getElem?_getD, List.getElem?_set_ne (Ne.symm h)]

@[simp] theorem startNote_cfg (m : Fp) (v : Nat) (n : BitVec 7) (s : State) :
    (startNote m v n s).cfg = s.cfg := rfl
@[simp] theorem startNote_cmd (m : Fp) (v : Nat) (n : BitVec 7) (s : State) :
    (startNote m v n s).cmd = s.cmd := rfl
@[simp] theorem startNote_busy (m : Fp) (v : Nat) (n : BitVec 7) (s : State) :
    (startNote m v n s).busy = s.busy := rfl
@[simp] theorem startNote_err (m : Fp) (v : Nat) (n : BitVec 7) (s : State) :
    (startNote m v n s).err = s.err := rfl
@[simp] theorem startNote_errcause (m : Fp) (v : Nat) (n : BitVec 7) (s : State) :
    (startNote m v n s).errcause = s.errcause := rfl
@[simp] theorem startNote_errcmd (m : Fp) (v : Nat) (n : BitVec 7) (s : State) :
    (startNote m v n s).errcmd = s.errcmd := rfl
@[simp] theorem startNote_a0 (m : Fp) (v : Nat) (n : BitVec 7) (s : State) :
    (startNote m v n s).a0 = s.a0 := rfl
@[simp] theorem startNote_a1 (m : Fp) (v : Nat) (n : BitVec 7) (s : State) :
    (startNote m v n s).a1 = s.a1 := rfl
@[simp] theorem startNote_a2 (m : Fp) (v : Nat) (n : BitVec 7) (s : State) :
    (startNote m v n s).a2 = s.a2 := rfl
@[simp] theorem startNote_a3 (m : Fp) (v : Nat) (n : BitVec 7) (s : State) :
    (startNote m v n s).a3 = s.a3 := rfl
@[simp] theorem startNote_r0 (m : Fp) (v : Nat) (n : BitVec 7) (s : State) :
    (startNote m v n s).r0 = s.r0 := rfl
@[simp] theorem startNote_params (m : Fp) (v : Nat) (n : BitVec 7) (s : State) :
    (startNote m v n s).params = s.params := rfl
@[simp] theorem startNote_snap (m : Fp) (v : Nat) (n : BitVec 7) (s : State) :
    (startNote m v n s).snap = s.snap := rfl
@[simp] theorem startNote_voices (m : Fp) (v : Nat) (n : BitVec 7) (s : State) :
    (startNote m v n s).voices = (s.setVoice v ((s.voice v).started s.cfg m n s.pool.tsctr)).voices := rfl
@[simp] theorem startNote_pool (m : Fp) (v : Nat) (n : BitVec 7) (s : State) :
    (startNote m v n s).pool = { s.pool with tsctr := s.pool.tsctr + 1#64 } := rfl
@[simp] theorem startNote_events (m : Fp) (v : Nat) (n : BitVec 7) (s : State) :
    (startNote m v n s).events = s.events := rfl
@[simp] theorem startNote_dest (m : Fp) (v : Nat) (n : BitVec 7) (s : State) :
    (startNote m v n s).dest = s.dest := rfl
@[simp] theorem startNote_scr (m : Fp) (v : Nat) (n : BitVec 7) (s : State) :
    (startNote m v n s).scr = s.scr := rfl
@[simp] theorem startNote_moves (m : Fp) (v : Nat) (n : BitVec 7) (s : State) :
    (startNote m v n s).moves = s.moves := rfl
@[simp] theorem startNote_during (m : Fp) (v : Nat) (n : BitVec 7) (s : State) :
    (startNote m v n s).during = s.during := rfl
@[simp] theorem startNote_rdata (m : Fp) (v : Nat) (n : BitVec 7) (s : State) :
    (startNote m v n s).rdata = s.rdata := rfl
@[simp] theorem startNote_draws (m : Fp) (v : Nat) (n : BitVec 7) (s : State) :
    (startNote m v n s).draws = s.draws := rfl

end Sys2Proof.Machine
end

