-- ==== Sys2Proof/Laws/Memory.lean ====
section
/-! SUPPORT. The sample memories: a read after a write, and the canonical form that every write keeps. -/

namespace Sys2Proof.Machine

/-- A word just written reads back. -/
@[simp] theorem Memory.read_write_same (m : Memory) (a : Nat) (w : Word) : (m.write a w).read a = some w := by
  induction m with
  | nil => simp [Memory.write, Memory.read]
  | cons p rest ih =>
    obtain ⟨b, x⟩ := p
    by_cases h1 : a < b
    · simp [Memory.write, Memory.read, h1]
    · by_cases h2 : a = b
      · simp [Memory.write, Memory.read, h2]
      · simp [Memory.write, Memory.read, h1, h2, ih]

/-- A write leaves every other address alone. -/
theorem Memory.read_write_other (m : Memory) (a b : Nat) (w : Word) (h : b ≠ a) :
    (m.write a w).read b = m.read b := by
  induction m with
  | nil => simp [Memory.write, Memory.read, h]
  | cons p rest ih =>
    obtain ⟨c, x⟩ := p
    by_cases h1 : a < c
    · simp [Memory.write, Memory.read, h1, h]
    · by_cases h2 : a = c
      · subst h2; simp [Memory.write, Memory.read, h]
      · by_cases h3 : b = c
        · simp [Memory.write, Memory.read, h1, h2, h3]
        · simp [Memory.write, Memory.read, h1, h2, h3, ih]

/-- The canonical form in Mathlib's terms. -/
theorem Memory.wf_iff (m : Memory) : m.wf = true ↔ m.Pairwise (fun p q => p.1 < q.1) := by
  induction m with
  | nil => simp [Memory.wf]
  | cons p rest ih =>
    cases rest with
    | nil => simp [Memory.wf]
    | cons q rest =>
      simp only [Memory.wf, Bool.and_eq_true, decide_eq_true_eq, ih]
      constructor
      · rintro ⟨hpq, hrest⟩
        refine List.pairwise_cons.2 ⟨?_, hrest⟩
        intro r hr
        rcases List.mem_cons.1 hr with rfl | hr
        · exact hpq
        · exact lt_trans hpq ((List.pairwise_cons.1 hrest).1 r hr)
      · intro h
        have h' := List.pairwise_cons.1 h
        exact ⟨h'.1 q List.mem_cons_self, h'.2⟩

/-- The addresses after a write are those before it and the one written. -/
theorem Memory.mem_write (m : Memory) (a : Nat) (w : Word) (p : Nat × Word) (h : p ∈ m.write a w) :
    p = (a, w) ∨ p ∈ m := by
  induction m with
  | nil => simpa [Memory.write] using h
  | cons q rest ih =>
    obtain ⟨b, x⟩ := q
    simp only [Memory.write] at h
    split at h
    · simpa using h
    · split at h
      · rcases List.mem_cons.1 h with h | h
        · exact .inl h
        · exact .inr (List.mem_cons_of_mem _ h)
      · rcases List.mem_cons.1 h with h | h
        · exact .inr (h ▸ List.mem_cons_self)
        · exact (ih h).imp id (List.mem_cons_of_mem _)

/-- A write keeps the canonical form. -/
theorem Memory.write_wf (m : Memory) (a : Nat) (w : Word) (h : m.wf = true) : (m.write a w).wf = true := by
  rw [Memory.wf_iff] at h ⊢
  induction m with
  | nil => simp [Memory.write]
  | cons p rest ih =>
    obtain ⟨b, x⟩ := p
    obtain ⟨hb, hrest⟩ := List.pairwise_cons.1 h
    simp only [Memory.write]
    split
    · rename_i hab
      refine List.pairwise_cons.2 ⟨?_, h⟩
      intro q hq
      rcases List.mem_cons.1 hq with rfl | hq
      · exact hab
      · exact lt_trans hab (hb q hq)
    · split
      · rename_i _ hab
        subst hab
        exact List.pairwise_cons.2 ⟨hb, hrest⟩
      · rename_i h1 h2
        refine List.pairwise_cons.2 ⟨?_, ih hrest⟩
        intro q hq
        rcases Memory.mem_write rest a w q hq with rfl | hq
        · show b < a
          omega
        · exact hb q hq

/-- A write inside the memory keeps every address inside it. -/
theorem Memory.write_within (c : Config) (m : Memory) (a : Nat) (w : Word)
    (h : m.within c = true) (ha : a < c.capChan * c.capBlock) : (m.write a w).within c = true := by
  simp only [Memory.within, List.all_eq_true, decide_eq_true_eq] at h ⊢
  intro p hp
  rcases Memory.mem_write m a w p hp with rfl | hp
  · exact ha
  · exact h p hp

/-- An element of the memory has an address in it (rule R62). -/
theorem sampleAddr_lt (cfg : Config) (c i : Nat) (h : sampleExists cfg c i = true) :
    sampleAddr cfg c i < cfg.capChan * cfg.capBlock := by
  simp only [sampleExists, Bool.and_eq_true, decide_eq_true_eq] at h
  simp only [sampleAddr]
  calc c * cfg.capBlock + i < c * cfg.capBlock + cfg.capBlock := by omega
    _ = (c + 1) * cfg.capBlock := by ring
    _ ≤ cfg.capChan * cfg.capBlock := Nat.mul_le_mul_right _ h.1

end Sys2Proof.Machine
end

