-- ==== Sys2Proof/Laws/Ops.lean ====
section
/-! SUPPORT. What each shared operation can do, said once: the counted loops, the accesses to the sample memories, and the common
shapes of a command. -/

namespace Sys2Proof.Machine

/-- A property that one pass of a loop keeps holds after the loop. -/
theorem eachUp_keeps {σ : Type} (P : σ → Prop) (f : Nat → σ → σ) (n start : Nat) (s : σ)
    (hf : ∀ i t, start ≤ i → i < start + n → P t → P (f i t)) (hs : P s) : P (eachUp start n f s) := by
  induction n generalizing start s with
  | zero => exact hs
  | succ n ih =>
    refine ih (start + 1) (f start s) (fun i t h1 h2 => hf i t (by omega) (by omega)) ?_
    exact hf start s (le_refl _) (by omega) hs

/-- If a loop ends without a fault, a property that each pass keeps holds after it. -/
theorem forUp_keeps {σ : Type} (P : σ → Prop) (f : Nat → σ → Except Fault σ) (n start : Nat) (s t : σ)
    (hf : ∀ i u u', start ≤ i → i < start + n → P u → f i u = .ok u' → P u') (hs : P s)
    (h : forUp start n f s = .ok t) : P t := by
  induction n generalizing start s with
  | zero =>
    simp only [forUp, Except.ok.injEq] at h
    exact h ▸ hs
  | succ n ih =>
    simp only [forUp] at h
    split at h
    · rename_i s' hs'
      exact ih (start + 1) s' (fun i u u' h1 h2 => hf i u u' (by omega) (by omega))
        (hf start s s' (le_refl _) (by omega) hs hs') h
    · exact absurd h (by simp)

/-- If every pass succeeds from every state with the property, and keeps it, the loop succeeds. -/
theorem forUp_ok {σ : Type} (P : σ → Prop) (f : Nat → σ → Except Fault σ) (n start : Nat) (s : σ)
    (hf : ∀ i u, start ≤ i → i < start + n → P u → ∃ u', f i u = .ok u' ∧ P u') (hs : P s) :
    ∃ t, forUp start n f s = .ok t ∧ P t := by
  induction n generalizing start s with
  | zero => exact ⟨s, rfl, hs⟩
  | succ n ih =>
    obtain ⟨s', hs', hP⟩ := hf start s (le_refl _) (by omega) hs
    obtain ⟨t, ht, hPt⟩ := ih (start + 1) s' (fun i u h1 h2 => hf i u (by omega) (by omega)) hP
    exact ⟨t, by simp [forUp, hs', ht], hPt⟩

/-- A loop of `a + b` passes is a loop of `a` passes and then one of `b`. -/
theorem forUp_add {σ : Type} (f : Nat → σ → Except Fault σ) (a b start : Nat) (s : σ) :
    forUp start (a + b) f s =
      match forUp start a f s with
      | .ok s' => forUp (start + a) b f s'
      | .error e => .error e := by
  induction a generalizing start s with
  | zero => simp [forUp]
  | succ a ih =>
    rw [Nat.succ_add]
    simp only [forUp]
    cases f start s with
    | ok s' => simp only [ih]; rw [show start + 1 + a = start + (a + 1) by omega]
    | error e => rfl

/-- A read of a sample that no write has reached faults. -/
theorem memRead_unwritten (sp : Space) (c i : Nat) (s : State) (h : sampleExists s.cfg c i = true)
    (hr : (s.mem sp).read (sampleAddr s.cfg c i) = none) :
    memRead sp c i s = .error (.unwritten sp (sampleAddr s.cfg c i)) := by
  simp [memRead, h, hr]

/-- A read that succeeds returns the word the memory holds. -/
theorem memRead_ok_iff (sp : Space) (c i : Nat) (s : State) (w : F32) :
    memRead sp c i s = .ok w ↔
      sampleExists s.cfg c i = true ∧ (s.mem sp).read (sampleAddr s.cfg c i) = some w := by
  unfold memRead
  split
  · cases h : (s.mem sp).read (sampleAddr s.cfg c i) <;> simp_all
  · simp_all

/-- All that a write can do. -/
theorem memWrite_ok_iff (sp : Space) (c i : Nat) (w : F32) (s t : State) :
    memWrite sp c i w s = .ok t ↔
      sampleExists s.cfg c i = true ∧ t = s.setMem sp ((s.mem sp).write (sampleAddr s.cfg c i) w) := by
  unfold memWrite
  split
  · rename_i h
    simp [h, eq_comm]
  · rename_i h
    simp [h]

/-- All that an update of a sample can do. -/
theorem memUpdate_ok_iff (sp : Space) (c i : Nat) (f : F32 → F32) (s t : State) :
    memUpdate sp c i f s = .ok t ↔
      ∃ x, memRead sp c i s = .ok x ∧ memWrite sp c i (f x) s = .ok t := by
  unfold memUpdate
  cases memRead sp c i s <;> simp

/-- A computation that may fault ends in a next state exactly when it does not fault. -/
@[simp] theorem finish_next_iff (r : Except Fault State) (t : State) : finish r = .next t ↔ r = .ok t := by
  cases r <;> simp [finish]

/-- No computation of the engine refuses. -/
@[simp] theorem finish_ne_refused (r : Except Fault State) (e : Refusal) : finish r ≠ .refused e := by
  cases r <;> simp [finish]

/-- A Voice that exists: the command's body runs. -/
theorem onVoice_exists (v : BitVec 8) (s : State) (body : Nat → Out) (h : s.voiceExists v = true) :
    onVoice v s body = body v.toNat := by
  simp [onVoice, h]

/-- A Voice that does not exist: `BadOperand`. -/
theorem onVoice_missing (v : BitVec 8) (s : State) (body : Nat → Out) (h : s.voiceExists v = false) :
    onVoice v s body = raised .badOperand s := by
  simp [onVoice, h]

/-- All that a command of the formats `U` and `UI` can do. -/
theorem onVoice_next (v : BitVec 8) (s t : State) (body : Nat → Out) (h : onVoice v s body = .next t) :
    (s.voiceExists v = true ∧ body v.toNat = .next t) ∨ (s.voiceExists v = false ∧ t = raise .badOperand s) := by
  cases hv : s.voiceExists v with
  | true => exact .inl ⟨rfl, by rwa [onVoice_exists v s body hv] at h⟩
  | false =>
    rw [onVoice_missing v s body hv] at h
    exact .inr ⟨rfl, by simpa [raised] using h.symm⟩

/-- All that a command that changes one Voice can do. -/
theorem updVoice_next (v : BitVec 8) (s t : State) (f : Voice → Voice) (h : updVoice v s f = .next t) :
    (s.voiceExists v = true ∧ t = s.setVoice v.toNat (f (s.voice v.toNat)))
    ∨ (s.voiceExists v = false ∧ t = raise .badOperand s) := by
  refine (onVoice_next v s t _ h).imp (fun h => ⟨h.1, ?_⟩) id
  simpa using h.2.symm

/-- All that a command that returns a value can do. -/
theorem queryVoice_next (v : BitVec 8) (s t : State) (f : Voice → Word) (h : queryVoice v s f = .next t) :
    (s.voiceExists v = true ∧ t = s.setR0 (f (s.voice v.toNat)))
    ∨ (s.voiceExists v = false ∧ t = raise .badOperand s) := by
  refine (onVoice_next v s t _ h).imp (fun h => ⟨h.1, ?_⟩) id
  simpa using h.2.symm

end Sys2Proof.Machine
end

