-- ==== Sys2Proof/Laws/Engine.lean ====
section
/-! SUPPORT. What the loops of the filter, the Voice and the mixer can change: one Voice and the sample memories, nothing else. -/

namespace Sys2Proof.Machine

/-- What engine work on Voice `v` leaves alone: everything but that Voice and the sample memories. -/
structure VoiceFrame (v : Nat) (s t : State) : Prop where
  host   : SameHost s t
  r0     : t.r0 = s.r0
  pool   : t.pool = s.pool
  events : t.events = s.events
  others : SameVoicesBut v s t

theorem VoiceFrame.refl (v : Nat) (s : State) : VoiceFrame v s s where
  host := by simp [SameHost, SameRecord, SameOperands, SameParams, SameModel]
  r0 := rfl
  pool := rfl
  events := rfl
  others := ⟨rfl, fun _ _ => rfl⟩

theorem VoiceFrame.trans {v : Nat} {s t u : State} (h : VoiceFrame v s t) (k : VoiceFrame v t u) :
    VoiceFrame v s u where
  host := by
    have h1 := h.host
    have h2 := k.host
    simp only [SameHost, SameRecord, SameOperands, SameParams, SameModel] at *
    simp_all
  r0 := k.r0.trans h.r0
  pool := k.pool.trans h.pool
  events := k.events.trans h.events
  others := ⟨k.others.1.trans h.others.1, fun u hu => (k.others.2 u hu).trans (h.others.2 u hu)⟩

theorem setVoice_frame (v : Nat) (s : State) (x : Voice) : VoiceFrame v s (s.setVoice v x) where
  host := by simp [SameHost, SameRecord, SameOperands, SameParams, SameModel]
  r0 := rfl
  pool := rfl
  events := rfl
  others := ⟨by simp, fun u hu => by simp [List.getElem?_set_ne (Ne.symm hu)]⟩

theorem setMem_frame (v : Nat) (s : State) (sp : Space) (m : Memory) : VoiceFrame v s (s.setMem sp m) where
  host := by simp [SameHost, SameRecord, SameOperands, SameParams, SameModel]
  r0 := by simp
  pool := by simp
  events := by simp
  others := ⟨by simp, fun u _ => by simp⟩

theorem memWrite_frame (v : Nat) (sp : Space) (c i : Nat) (w : F32) (s t : State)
    (h : memWrite sp c i w s = .ok t) : VoiceFrame v s t := by
  obtain ⟨-, rfl⟩ := (memWrite_ok_iff sp c i w s t).1 h
  exact setMem_frame v s sp _

theorem memUpdate_frame (v : Nat) (sp : Space) (c i : Nat) (f : F32 → F32) (s t : State)
    (h : memUpdate sp c i f s = .ok t) : VoiceFrame v s t := by
  obtain ⟨x, -, hw⟩ := (memUpdate_ok_iff sp c i f s t).1 h
  exact memWrite_frame v sp c i _ s t hw

/-- All that one element of `FltProcess` can do. -/
theorem fltElement_ok_iff (m : Fp) (k : Coef) (v ch i : Nat) (s t : State) :
    fltElement m k v ch i s = .ok t ↔
      ∃ x s', memRead .scr ch i s = .ok x
        ∧ memWrite .scr ch i (fltSample s.cfg m k ch x (s.voice v).flt).1 s = .ok s'
        ∧ t = s'.setVoice v { s.voice v with flt := (fltSample s.cfg m k ch x (s.voice v).flt).2 } := by
  unfold fltElement
  cases memRead .scr ch i s with
  | error e => simp
  | ok x =>
    cases h : memWrite .scr ch i (fltSample s.cfg m k ch x (s.voice v).flt).1 s with
    | error e => simp [h]
    | ok s' => simp [h, eq_comm]

theorem fltElement_frame (m : Fp) (k : Coef) (v ch i : Nat) (s t : State)
    (h : fltElement m k v ch i s = .ok t) : VoiceFrame v s t := by
  obtain ⟨x, s', -, hw, rfl⟩ := (fltElement_ok_iff m k v ch i s t).1 h
  exact (memWrite_frame v _ _ _ _ _ _ hw).trans (setVoice_frame v s' _)

/-- A loop whose passes keep the frame keeps it. -/
theorem forUp_frame (v n start : Nat) (f : Nat → State → Except Fault State) (s t : State)
    (hf : ∀ i u u', f i u = .ok u' → VoiceFrame v u u') (h : forUp start n f s = .ok t) : VoiceFrame v s t :=
  forUp_keeps (VoiceFrame v s) f n start s t (fun i u u' _ _ hu he => hu.trans (hf i u u' he))
    (VoiceFrame.refl v s) h

theorem fltProcess_frame (m : Fp) (v start num : Nat) (s t : State)
    (h : fltProcess m v start num s = .ok t) : VoiceFrame v s t :=
  forUp_frame v _ _ _ s t
    (fun _ u u' hu => forUp_frame v _ _ _ u u' (fun _ _ _ he => fltElement_frame _ _ _ _ _ _ _ he) hu) h

theorem clearScratch_frame (v nc start num : Nat) (s t : State)
    (h : clearScratch nc start num s = .ok t) : VoiceFrame v s t :=
  forUp_frame v _ _ _ s t
    (fun _ u u' hu => forUp_frame v _ _ _ u u' (fun _ _ _ he => memWrite_frame v _ _ _ _ _ _ he) hu) h

/-- All that the mixing of one element can do. -/
theorem mixElement_ok_iff (m : Fp) (c i : Nat) (s t : State) :
    mixElement m c i s = .ok t ↔
      ∃ y x, memRead .scr c i s = .ok y ∧ memRead .dest c i s = .ok x
        ∧ memWrite .dest c i (fadd m x y) s = .ok t := by
  unfold mixElement
  cases memRead .scr c i s with
  | error e => simp
  | ok y => simp [memUpdate_ok_iff]

theorem mixScratch_frame (v : Nat) (m : Fp) (nc start len : Nat) (s t : State)
    (h : mixScratch m nc start len s = .ok t) : VoiceFrame v s t := by
  refine forUp_frame v _ _ _ s t (fun _ u u' hu => forUp_frame v _ _ _ u u' (fun _ a b he => ?_) hu) h
  obtain ⟨y, x, -, -, hw⟩ := (mixElement_ok_iff _ _ _ a b).1 he
  exact memWrite_frame v _ _ _ _ _ _ hw

theorem renderSamples_frame (m : Fp) (v nc n i w w' : Nat) (s t : State)
    (h : renderSamples m v nc n i w s = .ok (w', t)) : VoiceFrame v s t := by
  induction n generalizing i w s with
  | zero =>
    simp only [renderSamples, Except.ok.injEq, Prod.mk.injEq] at h
    exact h.2 ▸ VoiceFrame.refl v s
  | succ n ih =>
    simp only [renderSamples] at h
    split at h
    · exact absurd h (by simp)
    · rename_i s' hs'
      have hf := (setVoice_frame v s _).trans
        (forUp_frame v _ _ _ _ s' (fun _ _ _ he => memUpdate_frame v _ _ _ _ _ _ he) hs')
      split at h
      · exact hf.trans (ih _ _ _ h)
      · simp only [Except.ok.injEq, Prod.mk.injEq] at h
        exact h.2 ▸ hf.trans (setVoice_frame v s' _)

/-- Rendering a Voice changes that Voice and the sample memories only. -/
theorem renderVoice_frame (m : Fp) (v start num : Nat) (s t : State)
    (h : renderVoice m v start num s = .ok t) : VoiceFrame v s t := by
  unfold renderVoice at h
  split at h
  · simp only at h
    split at h
    · exact absurd h (by simp)
    · rename_i s1 h1
      split at h
      · exact absurd h (by simp)
      · rename_i w s2 h2
        split at h
        · exact absurd h (by simp)
        · rename_i s3 h3
          exact (clearScratch_frame v _ _ _ _ _ h1).trans
            ((renderSamples_frame _ _ _ _ _ _ _ _ _ h2).trans
              ((fltProcess_frame _ _ _ _ _ _ h3).trans (mixScratch_frame v _ _ _ _ _ _ h)))
  · simp only [Except.ok.injEq] at h
    exact h ▸ VoiceFrame.refl v s

end Sys2Proof.Machine
end

