-- ==== Sys2Proof/Laws/Float.lean ====
section
/-! SUPPORT. The fields of a packed datum, and what flushing, the NaN draw and the final rounding can return. -/

namespace Sys2Proof.Machine

theorem fPack_toNat (neg : Bool) (n : Nat) (h : n < 2 ^ 31) :
    (fPack neg n).toNat = (if neg then 2 ^ 31 else 0) + n := by
  cases neg <;> simp [fPack] <;> omega

theorem fPack_sign (neg : Bool) (n : Nat) (h : n < 2 ^ 31) : fSign (fPack neg n) = neg := by
  rw [fSign, BitVec.msb_eq_decide, fPack_toNat neg n h]
  cases neg <;> simp
  omega

theorem fPack_exp (neg : Bool) (n : Nat) (h : n < 2 ^ 31) : fExp (fPack neg n) = n / 2 ^ 23 := by
  rw [fExp, fPack_toNat neg n h]
  cases neg <;> simp <;> omega

theorem fPack_frac (neg : Bool) (n : Nat) (h : n < 2 ^ 31) : fFrac (fPack neg n) = n % 2 ^ 23 := by
  rw [fFrac, fPack_toNat neg n h]
  cases neg <;> simp
  omega

/-- A packed magnitude up to that of infinity is no NaN. -/
theorem fPack_not_nan (neg : Bool) (n : Nat) (h : n ≤ 0x7F800000) : fIsNaN (fPack neg n) = false := by
  have hn : n < 2 ^ 31 := by omega
  rw [fIsNaN, fPack_exp neg n hn, fPack_frac neg n hn]
  simp
  omega

/-- What an operation returns when it must return a NaN is one (rule R125). -/
theorem fNaN_isNaN (m : Fp) : fIsNaN (fNaN m) = true := by
  unfold fNaN
  generalize Config.freeNaN m.path = w
  have hf : w.toNat % 2 ^ 23 < 2 ^ 23 := Nat.mod_lt _ (by decide)
  generalize hk : (if w.toNat % 2 ^ 23 = 0 then 1 else w.toNat % 2 ^ 23) = k
  have h1 : 1 ≤ k ∧ k < 2 ^ 23 := by
    subst hk
    split <;> omega
  have hn : 0x7F800000 + k < 2 ^ 31 := by omega
  show fIsNaN (fPack w.msb (0x7F800000 + if w.toNat % 2 ^ 23 = 0 then 1 else w.toNat % 2 ^ 23)) = true
  rw [hk, fIsNaN, fPack_exp _ _ hn, fPack_frac _ _ hn]
  simp
  omega

/-- Rounding keeps the sign it is given (rule R124). -/
theorem roundRat_sign (neg : Bool) (num den : Nat) : fSign (roundRat neg num den) = neg :=
  fPack_sign _ _ (Nat.lt_of_le_of_lt (Nat.min_le_right _ _) (by decide))

/-- Rounding never makes a NaN (rule R124). -/
theorem roundRat_not_nan (neg : Bool) (num den : Nat) : fIsNaN (roundRat neg num den) = false :=
  fPack_not_nan _ _ (Nat.min_le_right _ _)

/-- Without `FTZ` nothing is flushed (rule R126). -/
theorem fFlush_off (m : Fp) (x : F32) (h : m.ftz = false) : fFlush m x = x := by simp [fFlush, h]

/-- What is not subnormal is kept (rule R126). -/
theorem fFlush_normal (m : Fp) (x : F32) (h : fIsSubnormal x = false) : fFlush m x = x := by simp [fFlush, h]

theorem fPack_zero_not_subnormal (neg : Bool) : fIsSubnormal (fPack neg 0) = false := by cases neg <;> decide

/-- With `FTZ` nothing that has been flushed is subnormal (rule R126). -/
theorem fFlush_not_subnormal (m : Fp) (x : F32) (h : m.ftz = true) : fIsSubnormal (fFlush m x) = false := by
  cases hx : fIsSubnormal x with
  | false => rw [fFlush_normal m x hx, hx]
  | true => simp [fFlush, h, hx, fPack_zero_not_subnormal]

theorem fFlush_idem (m : Fp) (x : F32) : fFlush m (fFlush m x) = fFlush m x := by
  cases h : m.ftz with
  | false => rw [fFlush_off m x h, fFlush_off m x h]
  | true => exact fFlush_normal m _ (fFlush_not_subnormal m x h)

@[simp] theorem Fp.sub_ftz (m : Fp) (k : Nat) : (m.sub k).ftz = m.ftz := rfl

end Sys2Proof.Machine
end

