-- ==== Sys2Proof/Laws/PerInstr.lean ====
section
/-! SUPPORT. Facts about every command as syntax, one lemma per constructor. -/

namespace Sys2Proof.Laws

/-- A word built by `commandWord` from an opcode, any Voice index and an immediate masked to zero matches a row whose
mask covers the opcode and those immediate bits. -/
theorem commandWord_spells (opc v : BitVec 8) (imm mbz : BitVec 16) (h : imm &&& mbz = 0#16) :
    commandWord opc v imm &&& commandWord 0xFF#8 0#8 mbz = commandWord opc 0#8 0#16 := by
  have h1 : commandWord opc v imm &&& commandWord 0xFF#8 0#8 mbz
      = ((opc &&& 0xFF#8) ++ (v &&& 0#8)) ++ (imm &&& mbz) := by
    show ((opc ++ v) ++ imm : BitVec (8 + 8 + 16)) &&& ((0xFF#8 ++ 0#8) ++ mbz) = _
    rw [BitVec.and_append, BitVec.and_append]
  have h2 : opc &&& 0xFF#8 = opc := BitVec.and_allOnes (x := opc)
  rw [h1, h, h2, BitVec.and_zero]
  rfl

/-- The same for the formats `G` and `GI`, whose Voice index must be zero. -/
theorem commandWord_spells_global (opc : BitVec 8) (imm mbz : BitVec 16) (h : imm &&& mbz = 0#16) :
    commandWord opc 0#8 imm &&& commandWord 0xFF#8 0xFF#8 mbz = commandWord opc 0#8 0#16 := by
  have h1 : commandWord opc 0#8 imm &&& commandWord 0xFF#8 0xFF#8 mbz
      = ((opc &&& 0xFF#8) ++ (0#8 &&& 0xFF#8)) ++ (imm &&& mbz) := by
    show ((opc ++ 0#8) ++ imm : BitVec (8 + 8 + 16)) &&& ((0xFF#8 ++ 0xFF#8) ++ mbz) = _
    rw [BitVec.and_append, BitVec.and_append]
  have h2 : opc &&& 0xFF#8 = opc := BitVec.and_allOnes (x := opc)
  rw [h1, h, h2, BitVec.zero_and]
  rfl

/-- An immediate that carries a note has bit 7 and its high bits as given. -/
theorem noteImm_and (hi m : BitVec 8) (note : BitVec 7) (h : hi &&& m = 0#8) :
    noteImm hi note &&& (m ++ 1#1 ++ 0#7) = 0#16 := by
  have h1 : noteImm hi note &&& (m ++ 1#1 ++ 0#7) = ((hi &&& m) ++ (0#1 &&& 1#1)) ++ (note &&& 0#7) := by
    show ((hi ++ 0#1) ++ note : BitVec (8 + 1 + 7)) &&& ((m ++ 1#1) ++ 0#7) = _
    rw [BitVec.and_append, BitVec.and_append]
  rw [h1, h, BitVec.and_zero]
  rfl

namespace EncodesItsRow

/-- A command's word spells the row of the opcode map that is the command's own (rule R92). -/
def Statement (i : Instr) : Prop := ∃ r, i.row? = some r ∧ r.spells (encode i) = true


theorem sysReset : Statement (.sysReset) := ⟨_, rfl, rfl⟩

theorem oscSetwave (v : BitVec 8) (wsel : BitVec 2) : Statement (.oscSetwave v wsel) :=
  ⟨_, rfl, beq_iff_eq.2 (commandWord_spells 0x10#8 v (0#14 ++ wsel) 0xFFFC#16 (by revert wsel; decide))⟩

theorem oscSetfreq (v : BitVec 8) : Statement (.oscSetfreq v) :=
  ⟨_, rfl, beq_iff_eq.2 (commandWord_spells 0x11#8 v (0#16) 0xFFFF#16 (rfl))⟩

theorem oscSetsr (v : BitVec 8) : Statement (.oscSetsr v) :=
  ⟨_, rfl, beq_iff_eq.2 (commandWord_spells 0x12#8 v (0#16) 0xFFFF#16 (rfl))⟩

theorem oscReset (v : BitVec 8) : Statement (.oscReset v) :=
  ⟨_, rfl, beq_iff_eq.2 (commandWord_spells 0x13#8 v (0#16) 0xFFFF#16 (rfl))⟩

theorem oscNext (v : BitVec 8) : Statement (.oscNext v) :=
  ⟨_, rfl, beq_iff_eq.2 (commandWord_spells 0x14#8 v (0#16) 0xFFFF#16 (rfl))⟩

theorem envNoteon (v : BitVec 8) : Statement (.envNoteon v) :=
  ⟨_, rfl, beq_iff_eq.2 (commandWord_spells 0x20#8 v (0#16) 0xFFFF#16 (rfl))⟩

theorem envNoteoff (v : BitVec 8) : Statement (.envNoteoff v) :=
  ⟨_, rfl, beq_iff_eq.2 (commandWord_spells 0x21#8 v (0#16) 0xFFFF#16 (rfl))⟩

theorem envNext (v : BitVec 8) : Statement (.envNext v) :=
  ⟨_, rfl, beq_iff_eq.2 (commandWord_spells 0x22#8 v (0#16) 0xFFFF#16 (rfl))⟩

theorem envSetparams (v : BitVec 8) : Statement (.envSetparams v) :=
  ⟨_, rfl, beq_iff_eq.2 (commandWord_spells 0x23#8 v (0#16) 0xFFFF#16 (rfl))⟩

theorem envSetsr (v : BitVec 8) : Statement (.envSetsr v) :=
  ⟨_, rfl, beq_iff_eq.2 (commandWord_spells 0x24#8 v (0#16) 0xFFFF#16 (rfl))⟩

theorem envIsactive (v : BitVec 8) : Statement (.envIsactive v) :=
  ⟨_, rfl, beq_iff_eq.2 (commandWord_spells 0x25#8 v (0#16) 0xFFFF#16 (rfl))⟩

theorem envGetlevel (v : BitVec 8) : Statement (.envGetlevel v) :=
  ⟨_, rfl, beq_iff_eq.2 (commandWord_spells 0x26#8 v (0#16) 0xFFFF#16 (rfl))⟩

theorem envGetstage (v : BitVec 8) : Statement (.envGetstage v) :=
  ⟨_, rfl, beq_iff_eq.2 (commandWord_spells 0x27#8 v (0#16) 0xFFFF#16 (rfl))⟩

theorem fltPrepare (v : BitVec 8) : Statement (.fltPrepare v) :=
  ⟨_, rfl, beq_iff_eq.2 (commandWord_spells 0x30#8 v (0#16) 0xFFFF#16 (rfl))⟩

theorem fltReset (v : BitVec 8) : Statement (.fltReset v) :=
  ⟨_, rfl, beq_iff_eq.2 (commandWord_spells 0x31#8 v (0#16) 0xFFFF#16 (rfl))⟩

theorem fltSetcutoff (v : BitVec 8) : Statement (.fltSetcutoff v) :=
  ⟨_, rfl, beq_iff_eq.2 (commandWord_spells 0x32#8 v (0#16) 0xFFFF#16 (rfl))⟩

theorem fltSetres (v : BitVec 8) : Statement (.fltSetres v) :=
  ⟨_, rfl, beq_iff_eq.2 (commandWord_spells 0x33#8 v (0#16) 0xFFFF#16 (rfl))⟩

theorem fltProcess (v : BitVec 8) : Statement (.fltProcess v) :=
  ⟨_, rfl, beq_iff_eq.2 (commandWord_spells 0x34#8 v (0#16) 0xFFFF#16 (rfl))⟩

theorem vPrepare (v : BitVec 8) : Statement (.vPrepare v) :=
  ⟨_, rfl, beq_iff_eq.2 (commandWord_spells 0x40#8 v (0#16) 0xFFFF#16 (rfl))⟩

theorem vStart (v : BitVec 8) (note : BitVec 7) : Statement (.vStart v note) :=
  ⟨_, rfl, beq_iff_eq.2 (commandWord_spells 0x41#8 v (noteImm 0#8 note) 0xFF80#16 (noteImm_and 0#8 0xFF#8 note rfl))⟩

theorem vStop (v : BitVec 8) (tail : Bool) : Statement (.vStop v tail) :=
  ⟨_, rfl, beq_iff_eq.2 (commandWord_spells 0x42#8 v (0#15 ++ BitVec.ofBool tail) 0xFFFE#16 (by cases tail <;> rfl))⟩

theorem vRender (v : BitVec 8) : Statement (.vRender v) :=
  ⟨_, rfl, beq_iff_eq.2 (commandWord_spells 0x43#8 v (0#16) 0xFFFF#16 (rfl))⟩

theorem vUpdosc (v : BitVec 8) (widx : BitVec 16) : Statement (.vUpdosc v widx) :=
  ⟨_, rfl, beq_iff_eq.2 (commandWord_spells 0x44#8 v (widx) 0x0000#16 (BitVec.and_zero))⟩

theorem vUpdflt (v : BitVec 8) : Statement (.vUpdflt v) :=
  ⟨_, rfl, beq_iff_eq.2 (commandWord_spells 0x45#8 v (0#16) 0xFFFF#16 (rfl))⟩

theorem vUpdadsr (v : BitVec 8) : Statement (.vUpdadsr v) :=
  ⟨_, rfl, beq_iff_eq.2 (commandWord_spells 0x46#8 v (0#16) 0xFFFF#16 (rfl))⟩

theorem vQuery (v : BitVec 8) : Statement (.vQuery v) :=
  ⟨_, rfl, beq_iff_eq.2 (commandWord_spells 0x47#8 v (0#16) 0xFFFF#16 (rfl))⟩

theorem pPrepare : Statement (.pPrepare) := ⟨_, rfl, rfl⟩

theorem pNoteon (note : BitVec 7) : Statement (.pNoteon note) :=
  ⟨_, rfl, beq_iff_eq.2 (commandWord_spells_global 0x51#8 _ 0xFF80#16
    (noteImm_and 0#8 0xFF#8 note rfl))⟩

theorem pNoteoff (note : BitVec 7) (tail : Bool) : Statement (.pNoteoff note tail) :=
  ⟨_, rfl, beq_iff_eq.2 (commandWord_spells_global 0x52#8 _ 0xFE80#16
    (noteImm_and _ 0xFE#8 note (by cases tail <;> rfl)))⟩

theorem pRender : Statement (.pRender) := ⟨_, rfl, rfl⟩

theorem pEvent (kind : EventKind) (note : BitVec 7) (tail : Bool) : Statement (.pEvent kind note tail) :=
  ⟨_, rfl, beq_iff_eq.2 (commandWord_spells_global 0x54#8 _ 0xFC80#16
    (noteImm_and _ 0xFC#8 note (by cases kind <;> cases tail <;> rfl)))⟩

end EncodesItsRow

end Sys2Proof.Laws
end

