-- ==== Sys2Proof/Laws/Render.lean ====
section
/-! SUPPORT. The small lemmas of the terms in which the rendering claims speak. -/

namespace Sys2Proof.Machine

variable (c : Config) (m : Fp) (start : Nat)

@[simp] theorem soundState_zero (o : Osc) (e : Env) : soundState c m start o e 0 = (o, e) := rfl

@[simp] theorem soundState_succ (o : Osc) (e : Env) (k : Nat) :
    soundState c m start o e (k + 1)
      = ((oscNext c ((m.sub (start + k)).sub 0) (soundState c m start o e k).1).2,
         envNext ((m.sub (start + k)).sub 1) (soundState c m start o e k).2) := rfl

/-- A render from `start` is its first sample and the render of the rest from `start + 1`. -/
theorem soundState_shift (o : Osc) (e : Env) (k : Nat) :
    soundState c m start o e (k + 1)
      = soundState c m (start + 1) (soundState c m start o e 1).1 (soundState c m start o e 1).2 k := by
  induction k with
  | zero => rfl
  | succ k ih =>
    rw [soundState_succ c m start o e (k + 1), ih, soundState_succ c m (start + 1) _ _ k,
      show start + (k + 1) = start + 1 + k by omega]

@[simp] theorem svfStates_zero (k : Coef) (x : Nat → F32) (a b : F32) :
    svfStates c m k start x a b 0 = (a, b) := rfl

/-- One more sample: the states after `svfOutput`'s step. -/
@[simp] theorem svfStates_succ (k : Coef) (x : Nat → F32) (a b : F32) (n : Nat) :
    svfStates c m k start x a b (n + 1)
      = (svfStep c (m.sub (start + n)) k (x n) (svfStates c m k start x a b n).1
          (svfStates c m k start x a b n).2).2 := rfl

end Sys2Proof.Machine
end

