-- ==== Sys2Proof/Machine/HostProgram.lean ====
section
/-! DEFINITION. Host programs: the pseudo-commands of rule R101 as the moves they expand to, and the text form of a command
(rule R100). No step of the machine uses them; they write down what a host does. -/

namespace Sys2Proof.Machine

/-- `HW <reg>, <value>` (rule R101). -/
def hostHW (n : Nat) (w : Word) : List Move := [.host (.regWrite n w)]

/-- `HR <reg>` (rule R101). -/
def hostHR (n : Nat) : List Move := [.host (.regRead n)]

/-- `GET`: read `R0` (rule R101). -/
def hostGet : List Move := hostHR 8

/-- `WAIT` (rule R101): `polls` reads of `STATUS` find `BUSY = 1`, then the engine completes while the control host makes
the writes `during`, then a read finds `BUSY = 0` (U8). -/
def hostWait (polls : Nat) (during : List CtlWrite) : List Move :=
  List.replicate polls (Move.host (.regRead 1)) ++ [Move.engine during, Move.host (.regRead 1)]

/-- The writes of the register operands of a command line; `none` is `_`, left unwritten (rules R100, R101). -/
def hostOperands : Nat → List (Option Word) → List Move
  | _, [] => []
  | k, some w :: rest => Move.host (.regWrite (4 + k) w) :: hostOperands (k + 1) rest
  | k, none :: rest => hostOperands (k + 1) rest

/-- A command line `M ops` (rule R101). -/
def hostCommand (i : Instr) (operands : List (Option Word)) (polls : Nat) (during : List CtlWrite) : List Move :=
  hostOperands 0 operands ++ hostHW 0 (encode i) ++ hostWait polls during

/-- `PARAMS` (rule R101). -/
def hostParams (p : Params) : List Move :=
  hostHW 16 p.waveform ++ hostHW 17 p.cutoff ++ hostHW 18 p.resonance ++ hostHW 19 p.attack
  ++ hostHW 20 p.decay ++ hostHW 21 p.sustain ++ hostHW 22 p.release ++ hostHW 23 p.masterVol

/-- `PUT space, c, i, value` (rule R101). -/
def hostPut (sp : Space) (c i : Nat) (w : Word) : List Move := [.host (.memWrite sp c i w)]

/-- `PEEK space, c, i` (rule R101). -/
def hostPeek (sp : Space) (c i : Nat) : List Move := [.host (.memRead sp c i)]

/-- `CLEAR n` for a pool of `nchan` channels (rule R101). -/
def hostClear (nchan n : Nat) : List Move :=
  (List.range nchan).flatMap fun c => (List.range n).flatMap fun i => hostPut .dest c i 0#32

/-- `CLRERR` (rule R101). -/
def hostClrerr : List Move := hostHW 1 0x00001F00#32

/-- `v<k>` (rule R100). -/
def textVoice (v : BitVec 8) : String := "v" ++ toString v.toNat

/-- `#<value>` (rule R100). -/
def textNumber (n : Nat) : String := "#" ++ toString n

/-- `WSEL` by name, or as a number if it has none (rule R100). -/
def textWsel (wsel : BitVec 2) : String :=
  match wsel.toNat with
  | 0 => "SINE"
  | 1 => "SAW"
  | 2 => "SQUARE"
  | n => textNumber n

/-- `TAILOFF` by name (rule R100). -/
def textTail (tail : Bool) : String := if tail then "tail" else "cut"

/-- The Voice and the immediate fields of a command in text form, in the order `TYPE`, `NOTE` or `WSEL` or `WIDX`,
`TAILOFF` (rule R100). -/
def textFields (i : Instr) : List String :=
  (match i.voice? with | some v => [textVoice v] | none => [])
  ++ match i with
    | .oscSetwave _ wsel => [textWsel wsel]
    | .vStart _ note => [textNumber note.toNat]
    | .vStop _ tail => [textTail tail]
    | .vUpdosc _ widx => [textNumber widx.toNat]
    | .pNoteon note => [textNumber note.toNat]
    | .pNoteoff note tail => [textNumber note.toNat, textTail tail]
    | .pEvent .noteOn note tail => ["on", textNumber note.toNat] ++ if tail then ["tail"] else []
    | .pEvent .noteOff note tail => ["off", textNumber note.toNat, textTail tail]
    | _ => []

/-- The text form of a command with its register operands as given (rule R100). -/
def textLine (i : Instr) (operands : List String) : String :=
  match textFields i ++ operands with
  | [] => i.mnemonic
  | fields => i.mnemonic ++ " " ++ String.intercalate ", " fields

end Sys2Proof.Machine
end

