-- ==== Sys2Proof/Tests/Slice0.lean ====
section
/-! SUPPORT. The author's tests. Expected values come from the spec's own words, vectors and programs
(95_test_vectors.md), never from the model. The witnesses at the end meet the hypotheses of the obligations. -/

namespace Sys2Proof.Tests

-- One theorem at a time: each parallel elaboration reserves memory of its own.
set_option Elab.async false

open Sys2Proof Sys2Proof.Machine

/- ## Small states -/

/-- A small instance. -/
def cfg2 : Config := { Config.default with nvoices := 2, capBlock := 4, capChan := 2, evqCap := 2 }

def s0 : State := State.resetOf cfg2

/-- Voice 0 of the vectors V1 to V5: note 69, Saw, envelope times 0. -/
def v0 : Voice where
  osc := { wave := .saw, freq := 0x43DC0000#32, sr := 0x44DC0000#32, phase := fZero, inc := 0x3E800000#32 }
  env := { stage := .attack, level := fZero, a := fZero, d := fZero, s := fOne, r := fZero, sr := 0x44DC0000#32 }
  flt :=
    { cutoff := 0x43DC0000#32, q := fHalf, sr := 0x44DC0000#32, maxblock := 4#32, nchan := 1#32, prepared := true
      s1 := [fZero, fZero], s2 := [fZero, fZero] }
  active := true
  note := some 69#7
  ts := 0#64
  ready := true

/-- The same Voice, free. -/
def v1 : Voice := { v0 with env := { v0.env with stage := .idle }, active := false, note := none }

def quiet4 : Memory := [(0, fZero), (1, fZero), (2, fZero), (3, fZero)]

/-- One sounding Voice, one free; both sample memories hold a block. -/
def s1 : State :=
  { s0 with
    voices := [v0, v1]
    pool := { tsctr := 1#64, ready := true, sr := 0x44DC0000#32, maxblock := 4#32, nchan := 1#32 }
    dest := quiet4, scr := [(0, fOne), (1, fOne), (2, fOne), (3, fOne)]
    a0 := 0#32, a1 := 4#32 }

/-- `s1` with Voice 0's envelope replaced. -/
def sEnv (e : Env) : State := { s1 with voices := [{ v0 with env := e }, v1] }

/-- The envelope of the vectors E1 to E5. -/
def envE (stage : Stage) (level : F32) : Env :=
  { stage := stage, level := level, a := fOne, d := fHalf, s := fHalf, r := fOne, sr := 0x40800000#32 }

/-- A Voice of the stealing vectors. -/
def vS (stage : Stage) (level : F32) (ts : BitVec 64) (note : BitVec 7) : Voice :=
  { v0 with env := { v0.env with stage := stage, level := level }, ts := ts, note := some note }

/-- Both Voices active, Voice 1 in Release. -/
def sFull : State :=
  { s1 with
    voices := [vS .sustain fOne 0#64 60#7, vS .release fHalf 1#64 62#7]
    pool := { s1.pool with tsctr := 2#64 } }

/- ## Reading an outcome -/

def isNext : Out → Bool
  | .next _ => true
  | .fault _ => false
  | .refused _ => false

/-- A property of the next state. -/
def holds (o : Out) (p : State → Bool) : Bool :=
  match o with
  | .next t => p t
  | .fault _ => false
  | .refused _ => false

theorem exists_next {o : Out} (h : isNext o = true) : ∃ t, o = .next t := by
  cases o with
  | next t => exact ⟨t, rfl⟩
  | fault _ => simp [isNext] at h
  | refused _ => simp [isNext] at h

/- ## WellFormed -/

theorem test_wf_accepts : Instr.wf Config.default (.oscSetwave 7#8 2#2) = true := by decide
theorem test_wf_refuses_missing_voice : Instr.wf Config.default (.oscNext 8#8) = false := by decide
theorem test_wf_refuses_wsel_three : Instr.wf Config.default (.oscSetwave 0#8 3#2) = false := by decide
theorem test_config_wf_refuses_no_voice : ({ Config.default with nvoices := 0 } : Config).wf = false := by decide
theorem test_config_wf_refuses_large_queue : ({ Config.default with evqCap := 65536 } : Config).wf = false := by
  decide

/- ## Decoding: the words of 95_test_vectors.md section 7, every constructor -/

theorem test_decode_sys_osc :
    decode 0x01000000#32 = .ok .sysReset
    ∧ decode 0x10070000#32 = .ok (.oscSetwave 7#8 0#2) ∧ decode 0x10020001#32 = .ok (.oscSetwave 2#8 1#2)
    ∧ decode 0x11030000#32 = .ok (.oscSetfreq 3#8) ∧ decode 0x12000000#32 = .ok (.oscSetsr 0#8)
    ∧ decode 0x13000000#32 = .ok (.oscReset 0#8) ∧ decode 0x14000000#32 = .ok (.oscNext 0#8) := by decide

theorem test_decode_env :
    decode 0x20000000#32 = .ok (.envNoteon 0#8) ∧ decode 0x21000000#32 = .ok (.envNoteoff 0#8)
    ∧ decode 0x22000000#32 = .ok (.envNext 0#8) ∧ decode 0x23000000#32 = .ok (.envSetparams 0#8)
    ∧ decode 0x24050000#32 = .ok (.envSetsr 5#8) ∧ decode 0x25000000#32 = .ok (.envIsactive 0#8)
    ∧ decode 0x26010000#32 = .ok (.envGetlevel 1#8) ∧ decode 0x27000000#32 = .ok (.envGetstage 0#8) := by decide

theorem test_decode_flt :
    decode 0x30000000#32 = .ok (.fltPrepare 0#8) ∧ decode 0x31000000#32 = .ok (.fltReset 0#8)
    ∧ decode 0x32000000#32 = .ok (.fltSetcutoff 0#8) ∧ decode 0x33000000#32 = .ok (.fltSetres 0#8)
    ∧ decode 0x34000000#32 = .ok (.fltProcess 0#8) := by decide

theorem test_decode_voice :
    decode 0x40000000#32 = .ok (.vPrepare 0#8) ∧ decode 0x41000045#32 = .ok (.vStart 0#8 69#7)
    ∧ decode 0x42000001#32 = .ok (.vStop 0#8 true) ∧ decode 0x43000000#32 = .ok (.vRender 0#8)
    ∧ decode 0x44010007#32 = .ok (.vUpdosc 1#8 7#16) ∧ decode 0x45000000#32 = .ok (.vUpdflt 0#8)
    ∧ decode 0x46000000#32 = .ok (.vUpdadsr 0#8) ∧ decode 0x47010000#32 = .ok (.vQuery 1#8) := by decide

theorem test_decode_pool :
    decode 0x50000000#32 = .ok .pPrepare ∧ decode 0x5100003C#32 = .ok (.pNoteon 60#7)
    ∧ decode 0x52000145#32 = .ok (.pNoteoff 69#7 true) ∧ decode 0x52000045#32 = .ok (.pNoteoff 69#7 false)
    ∧ decode 0x53000000#32 = .ok .pRender ∧ decode 0x54000245#32 = .ok (.pEvent .noteOn 69#7 false)
    ∧ decode 0x54000145#32 = .ok (.pEvent .noteOff 69#7 true)
    ∧ decode 0x54000045#32 = .ok (.pEvent .noteOff 69#7 false) := by decide

theorem test_decode_boundary_operands :
    decode 0x44FFFFFF#32 = .ok (.vUpdosc 255#8 65535#16) ∧ decode 0x41FF007F#32 = .ok (.vStart 255#8 127#7)
    ∧ decode 0x5400037F#32 = .ok (.pEvent .noteOn 127#7 true) ∧ decode 0x10000003#32 = .ok (.oscSetwave 0#8 3#2) := by
  decide

theorem test_decode_rejects_opcodes :
    decode 0x00000000#32 = .error .unassignedFn ∧ decode 0x02000000#32 = .error .unassignedFn
    ∧ decode 0x15000000#32 = .error .unassignedFn ∧ decode 0x28000000#32 = .error .unassignedFn
    ∧ decode 0x35000000#32 = .error .unassignedFn ∧ decode 0x48000000#32 = .error .unassignedFn
    ∧ decode 0x55000000#32 = .error .unassignedFn ∧ decode 0x60000000#32 = .error .unassignedUnit
    ∧ decode 0xFFFFFFFF#32 = .error .unassignedUnit := by decide

theorem test_decode_rejects_immediates :
    decode 0x01000001#32 = .error .immNotZero ∧ decode 0x10000004#32 = .error .immNotZero
    ∧ decode 0x14000001#32 = .error .immNotZero ∧ decode 0x41000080#32 = .error .immNotZero
    ∧ decode 0x42000002#32 = .error .immNotZero ∧ decode 0x51000080#32 = .error .immNotZero
    ∧ decode 0x52000080#32 = .error .immNotZero ∧ decode 0x52000200#32 = .error .immNotZero
    ∧ decode 0x54000080#32 = .error .immNotZero ∧ decode 0x54000400#32 = .error .immNotZero
    ∧ decode 0x53010000#32 = .error .vidxNotZero ∧ decode 0x50FF0000#32 = .error .vidxNotZero := by decide

theorem test_encode_words :
    encode (.oscSetwave 2#8 1#2) = 0x10020001#32 ∧ encode (.vStop 0#8 true) = 0x42000001#32
    ∧ encode (.vUpdosc 1#8 7#16) = 0x44010007#32 ∧ encode (.pNoteoff 69#7 true) = 0x52000145#32
    ∧ encode (.pEvent .noteOn 69#7 false) = 0x54000245#32 ∧ encode .pRender = 0x53000000#32 := by decide

/- ## Numerics: 95_test_vectors.md section 9 -/

def fp0 : Fp := { ftz := false, path := [] }
def fp1 : Fp := { ftz := true, path := [] }

theorem test_num_operations :
    fdiv fp0 0x43DC0000#32 0x472C4400#32 = 0x3C2377EE#32 ∧ fdiv fp0 fOne 0x40400000#32 = 0x3EAAAAAB#32
    ∧ fmul fp0 0x3C23D70A#32 0x472C4400#32 = 0x43DC8000#32 ∧ fdiv fp0 fOne 0x43DC8000#32 = 0x3B149B93#32
    ∧ fadd fp0 fZero 0x80000000#32 = fZero ∧ fmul fp0 fNegOne fZero = 0x80000000#32 := by decide +kernel

theorem test_num_sine :
    sin2pi Config.default fp0 0x3E000000#32 = 0x3F3504F3#32 ∧ sin2pi Config.default fp0 fHalf = 0xB3BBBD2E#32
    ∧ sin2pi Config.default fp0 0x3F400000#32 = 0xBF800000#32
    ∧ sin2pi Config.default fp0 0x3F7F6B6D#32 = 0xBC695F3F#32 := by decide +kernel

theorem test_num_notefreq :
    notefreq Config.default fp0 0#7 = 0x4102D013#32 ∧ notefreq Config.default fp0 60#7 = 0x4382D013#32
    ∧ notefreq Config.default fp0 69#7 = 0x43DC0000#32 ∧ notefreq Config.default fp0 127#7 = 0x4643FF6A#32 := by
  decide +kernel

theorem test_num_tan_and_coef :
    tan32 Config.default fp0 0x3D91E531#32 = 0x3D922480#32
    ∧ svfCoef Config.default fp0 0x447A0000#32 0x3F3504F3#32 0x472C4400#32
      = { g := 0x3D922480#32, r2 := 0x3FB504F3#32, h := 0x3F677686#32 } := by decide +kernel

/- ## One step per command -/

theorem test_sysReset :
    holds (exec .sysReset { s1 with cmd := 0x01000000#32 }) (fun t =>
      t.cmd = 0x01000000#32 ∧ t.pool.ready = false ∧ t.dest = [] ∧ t.voices.length = 2) = true := by decide +kernel

-- O8, O9: the phase is kept across a waveform change, and 3 is no waveform.
theorem test_oscSetwave :
    holds (exec (.oscSetwave 0#8 2#2) { s1 with voices := [{ v0 with osc := { v0.osc with phase := 0x3EC00000#32 } }, v1] })
      (fun t => (t.voice 0).osc.wave = .square ∧ (t.voice 0).osc.phase = 0x3EC00000#32) = true := by decide +kernel

theorem test_oscSetwave_three :
    holds (exec (.oscSetwave 0#8 3#2) { s1 with cmd := 0x10000003#32 })
      (fun t => (t.voice 0).osc.wave = .saw ∧ t.errcause = 2#32 ∧ t.errcmd = 0x10000003#32
        ∧ t.statusWord = 0x00000202#32) = true := by decide +kernel

-- O7
theorem test_oscSetfreq :
    holds (exec (.oscSetfreq 0#8) { s1 with a0 := 0x435C0000#32 })
      (fun t => (t.voice 0).osc.freq = 0x435C0000#32 ∧ (t.voice 0).osc.inc = 0x3E000000#32) = true := by decide +kernel

-- Section 2: 440 Hz at 44100 Hz
theorem test_oscSetsr :
    holds (exec (.oscSetsr 0#8) { s1 with a0 := 0x472C4400#32 })
      (fun t => (t.voice 0).osc.sr = 0x472C4400#32 ∧ (t.voice 0).osc.inc = 0x3C2377EE#32) = true := by decide +kernel

theorem test_oscReset :
    holds (exec (.oscReset 0#8) { s1 with voices := [{ v0 with osc := { v0.osc with phase := 0x3E800000#32 } }, v1] })
      (fun t => (t.voice 0).osc.phase = fZero ∧ (t.voice 0).osc.inc = 0x3E800000#32) = true := by decide +kernel

-- Section 2, k = 1
theorem test_oscNext_sine :
    holds (exec (.oscNext 0#8) { s1 with
        voices := [{ v0 with osc := { v0.osc with wave := .sine, phase := 0x3C2377EE#32, inc := 0x3C2377EE#32 } }, v1] })
      (fun t => t.r0 = 0x3D804DC4#32 ∧ (t.voice 0).osc.phase = 0x3CA377EE#32) = true := by decide +kernel

-- O1, O5: the sample at phase 0.75, and the wrap at exactly 1.0
theorem test_oscNext_wrap :
    holds (exec (.oscNext 0#8) { s1 with voices := [{ v0 with osc := { v0.osc with phase := 0x3F400000#32 } }, v1] })
      (fun t => t.r0 = 0x3F000000#32 ∧ (t.voice 0).osc.phase = fZero) = true := by decide +kernel

-- E3: the attack continues from the level it finds
theorem test_envNoteon :
    holds (exec (.envNoteon 0#8) (sEnv (envE .release 0x3E800000#32)))
      (fun t => (t.voice 0).env = envE .attack 0x3E800000#32) = true := by decide +kernel

-- E5
theorem test_envNoteoff_idle :
    holds (exec (.envNoteoff 0#8) (sEnv (envE .idle fZero)))
      (fun t => (t.voice 0).env = envE .idle fZero) = true := by decide +kernel

theorem test_envNoteoff :
    holds (exec (.envNoteoff 0#8) (sEnv (envE .attack fHalf)))
      (fun t => (t.voice 0).env = envE .release fHalf) = true := by decide +kernel

-- E1, the fourth and the fifth sample
theorem test_envNext_attack_ends :
    holds (exec (.envNext 0#8) (sEnv (envE .attack 0x3F400000#32)))
      (fun t => t.r0 = fOne ∧ (t.voice 0).env = envE .decay fOne) = true := by decide +kernel

theorem test_envNext_decay_ends :
    holds (exec (.envNext 0#8) (sEnv (envE .decay fOne)))
      (fun t => t.r0 = fHalf ∧ (t.voice 0).env = envE .sustain fHalf) = true := by decide +kernel

theorem test_envSetparams :
    holds (exec (.envSetparams 0#8) { s1 with a0 := fOne, a1 := fHalf, a2 := 0x3E800000#32, a3 := fTwo })
      (fun t => (t.voice 0).env
        = { v0.env with a := fOne, d := fHalf, s := 0x3E800000#32, r := fTwo }) = true := by decide +kernel

theorem test_envSetsr :
    holds (exec (.envSetsr 1#8) { s1 with a0 := 0x40800000#32 })
      (fun t => (t.voice 1).env.sr = 0x40800000#32 ∧ (t.voice 0).env.sr = 0x44DC0000#32) = true := by decide +kernel

-- E9: active at level 0 in Sustain
theorem test_envIsactive :
    holds (exec (.envIsactive 0#8) (sEnv (envE .sustain fZero))) (fun t => t.r0 = 1#32) = true
    ∧ holds (exec (.envIsactive 1#8) s1) (fun t => t.r0 = 0#32) = true := by decide +kernel

theorem test_envGetlevel :
    holds (exec (.envGetlevel 0#8) (sEnv (envE .release 0x3E800000#32))) (fun t => t.r0 = 0x3E800000#32) = true := by
  decide +kernel

theorem test_envGetstage :
    holds (exec (.envGetstage 0#8) (sEnv (envE .sustain fHalf))) (fun t => t.r0 = 3#32) = true
    ∧ holds (exec (.envGetstage 1#8) s1) (fun t => t.r0 = 0#32) = true := by decide +kernel

theorem test_fltPrepare :
    holds (exec (.fltPrepare 1#8) { s0 with a0 := 0x44DC0000#32, a1 := 4#32, a2 := 1#32 })
      (fun t => (t.voice 1).flt.prepared = true ∧ (t.voice 1).flt.maxblock = 4#32 ∧ (t.voice 1).flt.nchan = 1#32
        ∧ (t.voice 1).ready = false) = true := by decide +kernel

-- F8
theorem test_fltPrepare_bad :
    holds (exec (.fltPrepare 0#8) { s0 with a0 := fZero, a1 := 4#32, a2 := 1#32 })
      (fun t => t.errcause = 2#32 ∧ t.voices = s0.voices) = true
    ∧ holds (exec (.fltPrepare 0#8) { s0 with a0 := 0x44DC0000#32, a1 := 5#32, a2 := 1#32 })
      (fun t => t.errcause = 2#32 ∧ t.voices = s0.voices) = true := by decide +kernel

theorem test_fltReset :
    holds (exec (.fltReset 0#8) { s1 with voices := [{ v0 with flt := { v0.flt with s1 := [fOne, fOne] } }, v1] })
      (fun t => (t.voice 0).flt = v0.flt) = true := by decide +kernel

theorem test_fltSetcutoff :
    holds (exec (.fltSetcutoff 0#8) { s1 with a0 := 0x447A0000#32 })
      (fun t => (t.voice 0).flt = { v0.flt with cutoff := 0x447A0000#32 }) = true := by decide +kernel

theorem test_fltSetres :
    holds (exec (.fltSetres 0#8) { s1 with a0 := fOne })
      (fun t => (t.voice 0).flt = { v0.flt with q := fOne }) = true := by decide +kernel

-- F1
theorem test_fltProcess :
    holds (exec (.fltProcess 0#8) s1)
      (fun t => t.scr = [(0, 0x3E800000#32), (1, 0x3F400000#32), (2, fOne), (3, fOne)]
        ∧ (t.voice 0).flt.s1 = [fZero, fZero] ∧ (t.voice 0).flt.s2 = [fOne, fZero]) = true := by decide +kernel

-- F8: the sum does not wrap
theorem test_fltProcess_range :
    holds (exec (.fltProcess 0#8) { s1 with a0 := 0xFFFFFFFF#32, a1 := 2#32 })
      (fun t => t.errcause = 4#32 ∧ t.scr = s1.scr) = true
    ∧ holds (exec (.fltProcess 0#8) { s1 with a0 := 4#32, a1 := 0#32 })
      (fun t => t.errcause = 0#32 ∧ t.scr = s1.scr) = true := by decide +kernel

theorem test_vPrepare :
    holds (exec (.vPrepare 0#8) { s0 with a0 := 0x44DC0000#32, a1 := 4#32, a2 := 1#32 })
      (fun t => (t.voice 0).ready = true ∧ (t.voice 0).osc.sr = 0x44DC0000#32 ∧ (t.voice 0).env.sr = 0x44DC0000#32
        ∧ (t.voice 0).flt.prepared = true ∧ t.pool.ready = false) = true := by decide +kernel

-- V8
theorem test_vStart :
    holds (exec (.vStart 1#8 81#7) s1)
      (fun t => (t.voice 1).osc.freq = 0x445C0000#32 ∧ (t.voice 1).osc.inc = fHalf ∧ (t.voice 1).note = some 81#7
        ∧ (t.voice 1).ts = 1#64 ∧ t.pool.tsctr = 2#64 ∧ (t.voice 1).env.stage = .attack) = true := by decide +kernel

-- V3, V5
theorem test_vStop :
    holds (exec (.vStop 0#8 true) s1)
      (fun t => (t.voice 0).env.stage = .release ∧ (t.voice 0).active = true ∧ (t.voice 0).note = some 69#7) = true
    ∧ holds (exec (.vStop 0#8 false) s1)
      (fun t => (t.voice 0).env.stage = .release ∧ (t.voice 0).active = false ∧ (t.voice 0).note = none) = true := by
  decide +kernel

-- V1
theorem test_vRender :
    holds (exec (.vRender 0#8) s1)
      (fun t => t.dest = [(0, 0xBE800000#32), (1, 0xBF200000#32), (2, 0xBF000000#32), (3, fZero)]
        ∧ (t.voice 0).osc.phase = fZero ∧ (t.voice 0).env.stage = .sustain
        ∧ (t.voice 0).flt.s1.head? = some 0x3E800000#32 ∧ (t.voice 0).active = true) = true := by decide +kernel

-- V4, FILTER_RANGE = full
theorem test_vRender_tail :
    holds (exec (.vRender 0#8) { s1 with
        voices := [{ vS .release fOne 0#64 69#7 with
          flt := { v0.flt with s1 := [0x3E800000#32, fZero], s2 := [0x3E800000#32, fZero] } }, v1] })
      (fun t => t.dest = [(0, 0x3E800000#32), (1, 0x3E000000#32), (2, fZero), (3, fZero)]
        ∧ (t.voice 0).active = false ∧ (t.voice 0).env.stage = .idle ∧ (t.voice 0).osc.phase = 0x3E800000#32) = true := by
  decide +kernel

-- V7
theorem test_vUpdosc :
    holds (exec (.vUpdosc 0#8 2#16) s1) (fun t => (t.voice 0).osc.wave = .square) = true
    ∧ holds (exec (.vUpdosc 0#8 65535#16) s1) (fun t => (t.voice 0).osc.wave = .sine) = true := by decide +kernel

theorem test_vUpdflt :
    holds (exec (.vUpdflt 0#8) { s1 with a0 := 0x447A0000#32, a1 := fOne })
      (fun t => (t.voice 0).flt = { v0.flt with cutoff := 0x447A0000#32, q := fOne }) = true := by decide +kernel

theorem test_vUpdadsr :
    holds (exec (.vUpdadsr 0#8) { s1 with a0 := fOne, a1 := fHalf, a2 := 0x3E800000#32, a3 := fTwo })
      (fun t => (t.voice 0).env
        = { v0.env with a := fOne, d := fHalf, s := 0x3E800000#32, r := fTwo }) = true := by decide +kernel

-- V.QUERY packing
theorem test_vQuery :
    holds (exec (.vQuery 0#8) { s1 with voices := [{ v0 with osc := { v0.osc with wave := .sine } }, v1] })
      (fun t => t.r0 = 0x000087C5#32) = true
    ∧ holds (exec (.vQuery 1#8) s1) (fun t => t.r0 = 0x0000A200#32) = true := by decide +kernel

-- Program 5, step 3
theorem test_vQuery_missing_voice :
    holds (exec (.vQuery 2#8) { s1 with cmd := 0x47020000#32, r0 := 7#32 })
      (fun t => t.r0 = 7#32 ∧ t.errcause = 2#32 ∧ t.errcmd = 0x47020000#32) = true := by decide +kernel

theorem test_pPrepare :
    holds (exec .pPrepare { s0 with a0 := 0x44DC0000#32, a1 := 4#32, a2 := 1#32 })
      (fun t => t.statusWord = 2#32 ∧ (t.voice 0).ready = true ∧ (t.voice 1).ready = true) = true := by decide +kernel

-- A3: a retrigger; program 3 step 9 (T7): the Voice in Release is stolen
theorem test_pNoteon_retrigger :
    holds (exec (.pNoteon 60#7) sFull)
      (fun t => (t.voice 0).ts = 2#64 ∧ (t.voice 0).note = some 60#7 ∧ (t.voice 1).note = some 62#7
        ∧ t.pool.tsctr = 3#64) = true := by decide +kernel

theorem test_pNoteon_steals :
    holds (exec (.pNoteon 67#7) sFull)
      (fun t => (t.voice 1).note = some 67#7 ∧ (t.voice 1).env.stage = .attack ∧ (t.voice 1).env.level = fHalf
        ∧ (t.voice 1).ts = 2#64 ∧ (t.voice 0).note = some 60#7) = true := by decide +kernel

-- A4, A6
theorem test_pNoteoff :
    holds (exec (.pNoteoff 60#7 false) sFull)
      (fun t => (t.voice 0).active = false ∧ (t.voice 0).note = none ∧ (t.voice 1).active = true) = true
    ∧ holds (exec (.pNoteoff 61#7 true) sFull)
      (fun t => t.voices = sFull.voices ∧ t.errcause = 0#32) = true := by decide +kernel

/-- `P[0..7]` of program 2, step 2. -/
def params2 : Params := ⟨1#32, 0x43DC0000#32, fHalf, fZero, fZero, fOne, fZero, fHalf⟩

-- Program 2, step 5
theorem test_pRender :
    holds (exec .pRender { s1 with
        voices := [v1, v1], pool := { s1.pool with tsctr := 0#64 }, a0 := 4#32
        params := params2, events := [⟨.noteOn, 69#7, false⟩] })
      (fun t => t.dest = [(0, 0xBE000000#32), (1, 0xBEA00000#32), (2, 0xBE800000#32), (3, fZero)]
        ∧ t.events = [] ∧ t.pool.tsctr = 1#64 ∧ (t.voice 0).env.stage = .sustain) = true := by decide +kernel

-- Program 5, steps 2 and 6
theorem test_pRender_errors :
    holds (exec .pRender s0) (fun t => t.errcause = 3#32 ∧ t.statusWord = 0x00000400#32) = true
    ∧ holds (exec .pRender { s1 with a0 := 5#32 }) (fun t => t.errcause = 4#32) = true := by decide +kernel

/-- A full queue of the small instance. -/
def queue2 : List EventRec := [⟨.noteOn, 1#7, false⟩, ⟨.noteOff, 1#7, true⟩]

-- A7: the queue of two records refuses the third
theorem test_pEvent :
    holds (exec (.pEvent .noteOn 69#7 false) s0) (fun t => t.evqCount = 1#32) = true
    ∧ holds (exec (.pEvent .noteOn 60#7 false) { s0 with events := queue2 })
      (fun t => t.evqCount = 2#32 ∧ t.errcause = 5#32 ∧ t.statusWord = 0x00001000#32) = true := by decide +kernel

/- ## The step and the host -/

-- Program 5, step 1
theorem test_step_illegal_word :
    holds (step { s0 with busy := true })
      (fun t => t.busy = false ∧ t.errcause = 1#32 ∧ t.errcmd = 0#32 ∧ t.statusWord = 0x00000100#32) = true := by
  decide +kernel

theorem test_withFetchWord_runs :
    holds (step (State.reset.withFetchWord 32 0x41000045))
      (fun t => (t.voice 0).note = some 69#7 ∧ t.busy = false ∧ t.cmd = 0x41000045#32 ∧ t.moves = []) = true := by
  decide +kernel

theorem test_host_issue_and_read :
    holds (step { s0 with moves := [.host (.regWrite 0 0x53000000#32)] })
      (fun t => t.busy = true ∧ t.cmd = 0x53000000#32) = true
    ∧ holds (step { s1 with moves := [.host (.regRead 9)] }) (fun t => t.rdata = 2#32) = true := by decide +kernel

/-- Four errors recorded. -/
def errs4 : ErrorBits := ⟨true, true, true, true, false⟩

-- Program 5, step 9
theorem test_host_clrerr :
    holds (step { s0 with err := errs4, errcause := 1#32, moves := hostClrerr })
      (fun t => t.statusWord = 0#32 ∧ t.errcause = 1#32) = true := by decide +kernel

-- U10: a control-host write that lands after latch read 0 reaches P[0] and not S[0]; P[7] is read last.
theorem test_latch_between_reads :
    holds (exec .pRender { s1 with
        voices := [v1, v1], a0 := 0#32
        during := [{ slot := 3, k := 0, w := 2#32 }, { slot := 3, k := 7, w := fHalf }] })
      (fun t => t.snap.waveform = 0#32 ∧ t.params.waveform = 2#32 ∧ t.snap.masterVol = fHalf) = true := by decide +kernel

/- ## Witnesses: the hypotheses of the obligations, met together, each clause at a boundary value -/

/-- The largest number of Voices. -/
def s256 : State := State.resetOf { Config.default with nvoices := 256 }

/-- A state in which a command is issued. -/
def sBusy (w : Word) (moves : List Move) : State := { s1 with cmd := w, busy := true, moves := moves }

theorem s1_inv : s1.Inv := by unfold State.Inv; decide +kernel

theorem sFull_inv : sFull.Inv := by unfold State.Inv; decide +kernel

theorem s1_incInv : s1.IncInv := by
  intro x hx
  have h : x = v0 ∨ x = v1 := by simpa [s1] using hx
  rcases h with rfl | rfl <;> exact fun _ _ => ⟨[], by decide +kernel⟩

theorem s1_poolInv : s1.PoolInv := by
  constructor
  · intro i j x y hx hy hij ax ay
    rcases i with _ | _ | i <;> rcases j with _ | _ | j <;>
      simp [s1] at hx hy hij <;> subst hx <;> subst hy <;> simp [v1] at ax ay
  · intro x hx ha
    have h : x = v0 ∨ x = v1 := by simpa [s1] using hx
    rcases h with rfl | rfl
    · decide
    · simp [v1] at ha

theorem witness_EncodeInvertsDecode : decode 0x5400037F#32 = .ok (.pEvent .noteOn 127#7 true) := by decide

theorem witness_DecodeFollowsOpcodeMap :
    let r : OpcodeRow := ⟨"OSC.SETWAVE", .ui, 0x10000000#32, 0xFF00FFFC#32⟩
    r ∈ opcodeRows ∧ 0x10FF0003#32 &&& r.mask = r.pattern := by decide +kernel

theorem witness_IllegalWordOnlyRecorded :
    (∀ r ∈ opcodeRows, (sBusy 0x60000000#32 []).cmd &&& r.mask ≠ r.pattern)
    ∧ ∀ r ∈ opcodeRows, (sBusy 0x10000004#32 []).cmd &&& r.mask ≠ r.pattern := by decide +kernel

theorem witness_StepRunsDecodedCommand :
    ((sBusy 0x14000000#32 [.engine []]).busy = true ∧ decode (sBusy 0x14000000#32 [.engine []]).cmd = .ok (.oscNext 0#8)
      ∧ (sBusy 0x14000000#32 [.engine []]).moves = .engine [] :: [])
    ∧ ((sBusy 0x54000245#32 []).busy = true ∧ decode (sBusy 0x54000245#32 []).cmd = .ok (.pEvent .noteOn 69#7 false)
      ∧ (sBusy 0x54000245#32 []).moves = [])
    ∧ s1.during = [] := by decide +kernel

theorem witness_CommandIssueAndIdle :
    ({ s1 with moves := [.host (.regWrite 0 5#32)] } : State).busy = false ∧ s1.busy = false ∧ s1.moves = [] := by
  decide

theorem witness_HostMovesWhileBusy :
    (sBusy 0#32 [.host (.regWrite 15 1#32)]).busy = true ∧ 15 < 32 ∧ ¬ (16 ≤ 15 ∧ 15 < 24)
    ∧ 24 < 32 ∧ ¬ (16 ≤ 24 ∧ 24 < 24) ∧ 31 < 32 ∧ ¬ (16 ≤ 31 ∧ 31 < 24)
    ∧ (sBusy 0#32 [.host (.memWrite .scr 0 0 1#32)]).busy = true
    ∧ isNext (step (sBusy 0#32 [.host (.regWrite (16 + (0 : Fin 8).val) 1#32)])) = true
    ∧ isNext (step (sBusy 0#32 [.host (.regWrite (16 + (7 : Fin 8).val) 1#32)])) = true := by decide +kernel

theorem witness_RegisterReadsAreIdempotent :
    holds (step { s1 with moves := [.host (.regRead 0)] }) (fun t => t.rdata = s1.cmd) = true
    ∧ holds (step { s1 with moves := [.host (.regRead 1)] }) (fun t => t.rdata = 0x00000002#32) = true
    ∧ holds (step { s1 with moves := [.host (.regRead 15)] }) (fun t => t.rdata = 0#32) = true
    ∧ holds (step { s1 with moves := [.host (.regRead 16)] }) (fun t => t.rdata = s1.params.waveform) = true
    ∧ holds (step { s1 with moves := [.host (.regRead 23)] }) (fun t => t.rdata = s1.params.masterVol) = true
    ∧ holds (step { s1 with moves := [.host (.regRead 24)] }) (fun t => t.rdata = 0#32) = true
    ∧ holds (step { s1 with moves := [.host (.regRead 31)] }) (fun t => t.rdata = 0#32) = true := by decide +kernel

theorem witness_RegisterWritesWhileIdle :
    holds (step { s1 with moves := [.host (.regWrite 4 9#32)] }) (fun t => t.a0 = 9#32) = true
    ∧ holds (step { s1 with moves := [.host (.regWrite 7 9#32)] }) (fun t => t.a3 = 9#32) = true
    ∧ holds (step { s1 with moves := [.host (.regWrite 2 9#32)] }) (fun t => t.errcause = 0#32) = true
    ∧ isNext (step { s1 with moves := [.host (.regWrite 31 9#32)] }) = true
    ∧ isNext (step { s1 with moves := [.host (.regRead 24)] }) = true
    ∧ isNext (step { s1 with moves := [.host (.regRead 32)] }) = false := by decide +kernel

theorem witness_StatusBitsReadAndClear :
    ({ s1 with err := errs4, moves := [.host (.regWrite 1 0x0000FFFF#32)] } : State).busy = false
    ∧ holds (step { s1 with err := errs4, moves := [.host (.regWrite 1 0x00000100#32)] })
      (fun t => t.statusWord = 0x00000E02#32) = true := by decide +kernel

theorem witness_ResetLeavesTheTable :
    ({ s1 with moves := [.hardReset] } : State).moves = .hardReset :: []
    ∧ holds (step { s1 with cmd := 7#32, busy := true, moves := [.hardReset] })
      (fun t => t.cmd = 0#32 ∧ t.busy = false ∧ t.pool.ready = false ∧ t.scr = []) = true := by decide +kernel

theorem witness_ResetSatisfiesInvariant : cfg2.wf = true ∧ s256.cfg.wf = true := by decide

theorem witness_SampleReadAfterWrite :
    (∃ t, memWrite .scr 1 3 7#32 s1 = .ok t) ∧ sampleExists s1.cfg 0 3 = true
    ∧ (Space.scr ≠ Space.scr ∨ (0 : Nat) ≠ 1 ∨ (3 : Nat) ≠ 3)
    ∧ (s1.busy = false ∧ sampleExists s1.cfg 1 3 = true ∧ sampleExists s1.cfg 2 0 = false
      ∧ (s1.mem .dest).read (sampleAddr s1.cfg 1 3) = none)
    ∧ memRead .dest 0 3 s1 = .ok fZero := by
  refine ⟨⟨_, by rfl⟩, by decide, by decide, by decide, by rfl⟩

theorem witness_RoundingIsNearestTiesToEven :
    0 < 2 ∧ fIsFinite (roundRat false (2 ^ 25 + 1) 2) = true
    ∧ fIsInf (roundRat true ((2 ^ 25 - 1) * 2 ^ 252) 1) = true
    ∧ fIsFinite (roundRat true ((2 ^ 25 - 1) * 2 ^ 252 - 1) 1) = true
    ∧ fIsFinite fOne = true ∧ fIsFinite fNegOne = true ∧ fVal (fFlush fp0 fOne) + fVal (fFlush fp0 fNegOne) = 0
    ∧ fIsFinite 0x7F7FFFFF#32 = true ∧ fVal (fFlush fp1 fOne) + fVal (fFlush fp1 0x7F7FFFFF#32) ≠ 0
    ∧ fVal (fFlush fp0 fOne) = fVal (fFlush fp0 fOne) ∧ fVal (fFlush fp0 fOne) ≠ fVal (fFlush fp0 fNegOne)
    ∧ fIsZero (fFlush fp0 fNegOne) = false := by decide +kernel

theorem witness_FloatSpecialCases :
    fIsNaN 0x7FC00000#32 = true ∧ fIsFinite 0x00000001#32 = true ∧ fIsZero (fFlush fp0 0x00000001#32) = false
    ∧ fIsFinite 0x7F7FFFFF#32 = true ∧ fIsZero (fFlush fp1 0x7F7FFFFF#32) = false
    ∧ fIsZero 0x80000000#32 = true ∧ fIsInf 0xFF800000#32 = true := by decide +kernel

theorem witness_FlushToZeroLeavesNoSubnormal :
    fp1.ftz = true ∧ fIsSubnormal 0x007FFFFF#32 = true ∧ fp0.ftz = false := by decide

theorem witness_DefaultSineIsBounded :
    Config.default.numSin = .spec ∧ fPhase fZero ∧ fPhase 0x3F7FFFFF#32 := by
  unfold fPhase; decide +kernel

theorem cfg2_notesOk : NotesOk cfg2 := by
  intro m _
  have h : ∀ n, notefreq cfg2 m n = notefreq cfg2 fp0 n := fun _ => rfl
  simp only [h]
  refine ⟨by decide +kernel, by decide +kernel, by decide +kernel, ?_⟩
  intro n k hk hn
  obtain rfl : n = BitVec.ofNat 7 (9 + 12 * k) := by
    apply BitVec.eq_of_toNat_eq
    simp
    omega
  interval_cases k <;> decide +kernel

theorem witness_DefaultNotefreqIsTempered :
    Config.default.numFreq = .spec ∧ (0#7).toNat < (127#7).toNat ∧ (127#7).toNat = (115#7).toNat + 12
    ∧ s1.Inv ∧ s1.voiceExists 0#8 = true ∧ NotesOk s1.cfg ∧ fFinitePos (s1.voice 0).osc.sr = true :=
  ⟨by decide, by decide, by decide, s1_inv, by decide, cfg2_notesOk, by decide +kernel⟩

theorem witness_SilentFilterStaysSilent :
    Config.default.numStep = .spec ∧ fIsFinite fOne = true ∧ fIsFinite (fadd (fp0.sub 4) fOne fTwo) = true
    ∧ fIsZero fZero = true ∧ fIsZero 0x80000000#32 = true
    ∧ Config.default.wf = true ∧ Config.default.numSin = .spec ∧ Config.default.numFreq = .spec := by decide +kernel

/-- The Voice exists: at both ends, in the smallest and the largest instance. -/
theorem voiceExists_bounds :
    s1.voiceExists 0#8 = true ∧ s1.voiceExists 1#8 = true ∧ s1.voiceExists 2#8 = false
    ∧ s256.voiceExists 255#8 = true := by decide

theorem witness_OscNextReadsThenAdvances : s1.voiceExists 0#8 = true ∧ isNext (exec (.oscNext 0#8) s1) = true := by
  decide +kernel

theorem witness_OscSetwaveAndReset :
    s256.voiceExists 255#8 = true
    ∧ (2#2 = 0#2 ∧ Waveform.square = .sine ∨ 2#2 = 1#2 ∧ Waveform.square = .saw
      ∨ 2#2 = 2#2 ∧ Waveform.square = .square) := by decide

theorem witness_OscSettersRecomputeIncrement :
    s1.voiceExists 1#8 = true ∧ s1.a0 = 0#32 ∧ isNext (exec (.oscSetsr 1#8) s1) = true := by decide +kernel

theorem witness_PhaseStaysInUnitInterval :
    fPhase fZero ∧ fPhase 0x3F7FFFFF#32 ∧ flt fZero 0x00000001#32 = true ∧ flt fZero 0x3F7FFFFF#32 = true
    ∧ flt 0x3F7FFFFF#32 fOne = true ∧ flt 0x00000001#32 fOne = true := by unfold fPhase; decide +kernel

theorem witness_SawRisesAndSquareHalves :
    fPhase fZero ∧ fPhase fHalf ∧ flt fZero fHalf = true ∧ fge fHalf fHalf = true ∧ flt fZero fHalf = true := by
  unfold fPhase; decide +kernel

theorem witness_EnvNextFollowsStages :
    s1.voiceExists 0#8 = true ∧ isNext (exec (.envNext 0#8) (sEnv (envE .decay fOne))) = true := by decide +kernel

theorem witness_EnvNotesAndSetters :
    s1.voiceExists 0#8 = true ∧ (s1.voice 0).env.stage ≠ .idle ∧ s1.voiceExists 1#8 = true
    ∧ (s1.voice 1).env.stage = .idle := by decide +kernel

theorem witness_EnvQueriesReturnState : s256.voiceExists 255#8 = true := by decide

theorem witness_EnvLevelStaysInUnitInterval :
    fUnit (envE .attack fOne).level ∧ fUnit (envE .attack fOne).s ∧ fFinitePos (envE .attack fOne).sr = true
    ∧ ∀ t, t = (envE .attack fOne).a ∨ t = (envE .attack fOne).d ∨ t = (envE .attack fOne).r →
      fIsFinite t = true ∧ fSign t = false := by
  unfold fUnit
  refine ⟨by decide +kernel, by decide +kernel, by decide +kernel, ?_⟩
  rintro t (rfl | rfl | rfl) <;> decide

theorem witness_ZeroTimeStagesCompleteAtOnce :
    fUnit v0.env.level ∧ fFinitePos v0.env.sr = true ∧ v0.env.stage = .attack ∧ v0.env.a = fZero
    ∧ feq v0.env.d fZero = true ∧ feq (envE .attack fZero).d fZero = false
    ∧ v0.env.d = fZero ∧ fUnit v0.env.s ∧ v0.env.r = fZero := by unfold fUnit; decide +kernel

theorem witness_FltPrepareChecksAndStores :
    s0.voiceExists 1#8 = true
    ∧ prepareArgsOk cfg2 0x44DC0000#32 4#32 2#32 = true ∧ prepareArgsOk cfg2 0x00000001#32 1#32 1#32 = true
    ∧ prepareArgsOk cfg2 0x44DC0000#32 5#32 2#32 = false ∧ prepareArgsOk cfg2 0x80000000#32 4#32 2#32 = false
    ∧ prepareArgsOk cfg2 0x7F800000#32 4#32 2#32 = false ∧ prepareArgsOk cfg2 0x44DC0000#32 4#32 3#32 = false
    ∧ prepareArgsOk cfg2 0x44DC0000#32 0#32 2#32 = false := by decide +kernel

theorem witness_FltResetAndSetters : s1.voiceExists 0#8 = true := by decide

theorem witness_FltProcessRunsRecurrence :
    s1.Inv ∧ s1.voiceExists 0#8 = true ∧ (s1.voice 0).flt.prepared = true
    ∧ s1.a0.toNat + s1.a1.toNat ≤ (s1.voice 0).flt.maxblock.toNat
    ∧ s1.regionWritten .scr 1 s1.a0.toNat s1.a1.toNat = true ∧ (0 : Nat) < (s1.voice 0).flt.nchan.toNat :=
  ⟨s1_inv, by decide +kernel, by decide +kernel, by decide +kernel, by decide +kernel, by decide +kernel⟩

theorem witness_VStartBeginsNote : s256.voiceExists 255#8 = true ∧ isNext (exec (.vStart 255#8 127#7) s256) = true := by
  decide +kernel

theorem witness_VStopReleasesOrFrees :
    s1.voiceExists 0#8 = true ∧ (s1.voice 0).env.stage ≠ .idle ∧ s1.voiceExists 1#8 = true
    ∧ (s1.voice 1).env.stage = .idle := by decide +kernel

theorem witness_VPrepareForwardsToUnits :
    s0.voiceExists 1#8 = true ∧ prepareArgsOk cfg2 0x44DC0000#32 4#32 2#32 = true
    ∧ prepareArgsOk cfg2 0x44DC0000#32 5#32 2#32 = false := by decide +kernel

theorem witness_VUpdatesWriteParameters : s256.voiceExists 0#8 = true ∧ s256.voiceExists 255#8 = true := by decide

theorem witness_VQueryPacksFields : s1.voiceExists 1#8 = true := by decide

/-- `s1` with `FILTER_RANGE = written` and Voice 0 of vector V4: its Release ends in the first sample. -/
def sTail : State :=
  { s1 with
    cfg := { cfg2 with filterRange := .written }
    voices := [{ vS .release fOne 0#64 69#7 with
      flt := { v0.flt with s1 := [0x3E800000#32, fZero], s2 := [0x3E800000#32, fZero] } }, v1] }

-- V4, FILTER_RANGE = written
theorem test_vRender_written :
    holds (exec (.vRender 0#8) sTail)
      (fun t => t.dest = [(0, 0x3E800000#32), (1, fZero), (2, fZero), (3, fZero)]
        ∧ (t.voice 0).flt.s1.head? = some 0xBE800000#32 ∧ (t.voice 0).flt.s2.head? = some 0x3E800000#32
        ∧ (t.voice 0).active = false) = true := by decide +kernel

theorem witness_VRenderMixesAdditively :
    s1.Inv ∧ s1.voiceExists 0#8 = true ∧ (s1.voice 0).ready = true ∧ (s1.voice 0).active = true
    ∧ s1.a0.toNat + s1.a1.toNat ≤ (s1.voice 0).flt.maxblock.toNat
    ∧ s1.regionWritten .dest 1 s1.a0.toNat s1.a1.toNat = true ∧ 0 < s1.a1.toNat
    ∧ s1.cfg.filterRange = .full
    ∧ (sTail.Inv ∧ sTail.cfg.filterRange = .written ∧ sTail.voiceExists 0#8 = true
      ∧ (sTail.voice 0).ready = true ∧ (sTail.voice 0).active = true
      ∧ sTail.a0.toNat + sTail.a1.toNat ≤ (sTail.voice 0).flt.maxblock.toNat
      ∧ sTail.regionWritten .dest 1 sTail.a0.toNat sTail.a1.toNat = true
      ∧ (soundState sTail.cfg (sTail.fp.sub 0) 0 (sTail.voice 0).osc (sTail.voice 0).env 1).2.stage = .idle) :=
  ⟨s1_inv, by decide +kernel, by decide +kernel, by decide +kernel, by decide +kernel, by decide +kernel,
    by decide +kernel, by decide +kernel,
    by unfold State.Inv; decide +kernel, by decide +kernel, by decide +kernel, by decide +kernel, by decide +kernel,
    by decide +kernel, by decide +kernel, by decide +kernel⟩

theorem witness_PPreparePreparesEveryVoice :
    s0.voices.length = s0.cfg.nvoices ∧ prepareArgsOk s0.cfg 0x44DC0000#32 4#32 2#32 = true
    ∧ prepareArgsOk s0.cfg 0x44DC0000#32 4#32 3#32 = false := by decide +kernel

theorem witness_PNoteonAllocates :
    LowestVoice s1 (fun x => x.holds 69#7) 0
    ∧ ((∀ x ∈ s1.voices, x.holds 70#7 = false) ∧ LowestVoice s1 (fun x => !x.active) 1)
    ∧ ∀ x ∈ sFull.voices, x.holds 67#7 = false ∧ x.active = true := by
  refine ⟨⟨⟨v0, by rfl, by decide +kernel⟩, fun u x hu _ => by omega⟩,
    ⟨by decide +kernel, ⟨⟨v1, by rfl, by decide +kernel⟩, ?_⟩⟩, by decide +kernel⟩
  intro u x hu hx
  obtain rfl : u = 0 := by omega
  simp [s1] at hx
  subst hx
  decide

theorem witness_StealChoiceIsLeast :
    1 ≤ sFull.cfg.nvoices ∧ sFull.voices.length = sFull.cfg.nvoices
    ∧ (∀ x ∈ sFull.voices, fIsNaN x.env.level = false)
    ∧ (1 < sFull.cfg.nvoices ∧ (sFull.voice 1).env.stage = .release) := by decide +kernel

theorem witness_PNoteoffRoutes :
    LowestVoice sFull (fun x => x.holds 62#7) 1 ∧ ∀ x ∈ sFull.voices, x.holds 61#7 = false := by
  refine ⟨⟨⟨_, by rfl, by decide +kernel⟩, ?_⟩, by decide +kernel⟩
  intro u x hu hx
  obtain rfl : u = 0 := by omega
  simp [sFull] at hx
  subst hx
  decide

theorem witness_PEventQueuesOrRefuses :
    s0.events.length ≤ s0.cfg.evqCap ∧ s0.events.length ≠ s0.cfg.evqCap ∧ queue2.length = s0.cfg.evqCap := by decide

theorem witness_PRenderCompletesBlock :
    let s : State := { s1 with a0 := 4#32 }
    (s.Inv ∧ s.pool.ready = true ∧ s.a0.toNat ≤ s.pool.maxblock.toNat
      ∧ s.regionWritten .dest s.renderChans 0 s.a0.toNat = true ∧ s.during = [])
    ∧ ((⟨.noteOn, 60#7, false⟩ : EventRec).kind = .noteOn ∧ (⟨.noteOff, 60#7, true⟩ : EventRec).kind = .noteOff)
    ∧ (s0.voiceExists 1#8 = true ∧ (s0.voice 1).ready = false)
    ∧ (s1.voiceExists 0#8 = true ∧ (s1.voice 0).ready = true ∧ s1.a0.toNat = 0
      ∧ s1.a1.toNat ≤ (s1.voice 0).flt.maxblock.toNat) := by
  unfold State.Inv
  decide +kernel

theorem witness_SilentBlockStaysSilent :
    let s : State := { s1 with voices := [v1, v1], a0 := 4#32, params := params2 }
    s.Inv ∧ s.pool.ready = true ∧ s.a0.toNat ≤ s.pool.maxblock.toNat ∧ s.during = [] ∧ s.events = []
    ∧ (∀ x ∈ s.voices, x.active = false) ∧ fIsFinite s.params.masterVol = true ∧ fSign s.params.masterVol = false
    ∧ ∀ c i, c < s.pool.nchan.toNat → i < s.a0.toNat → s.dest.read (sampleAddr s.cfg c i) = some fZero := by
  intro s
  refine ⟨by unfold State.Inv; decide +kernel, by decide +kernel, by decide +kernel, rfl, rfl, by decide +kernel,
    by decide +kernel, by decide +kernel, ?_⟩
  intro c i hc hi
  have hc' : c < 1 := hc
  have hi' : i < 4 := hi
  interval_cases c
  interval_cases i <;> rfl

theorem witness_LatchTakesOldOrNewValue :
    let x : CtlWrite := { slot := 7, k := 7, w := fHalf }
    ({ s1 with during := [x] } : State).during = [x] ∧ x.k = 7 ∧ x.slot ≤ (7 : Fin 8).val
    ∧ ∀ y ∈ ({ s1 with during := [{ x with slot := 8 }] } : State).during, y.k = 7 → (7 : Fin 8).val < y.slot := by
  decide +kernel

theorem witness_ApplySnapshotReachesEveryVoice : s1.voices.length = s1.cfg.nvoices ∧ 1 < s1.cfg.nvoices := by decide

theorem witness_UnitCommandsTouchOneVoice :
    (∃ t, exec (.oscNext 0#8) s1 = .next t) ∧ ∃ t, exec (.vUpdosc 255#8 65535#16) s1 = .next t :=
  ⟨exists_next (by decide +kernel), exists_next (by decide +kernel)⟩

theorem witness_UnitCommandsKeepOtherUnits :
    (∃ t, exec (.envNext 0#8) s1 = .next t) ∧ ∃ t, exec (.fltProcess 0#8) s1 = .next t :=
  ⟨exists_next (by decide +kernel), exists_next (by decide +kernel)⟩

theorem witness_ErrorsAreAllOrNothing :
    (∃ t, exec (.vRender 0#8) s1 = .next t) ∧ Instr.vRender 0#8 ≠ .sysReset
    ∧ ∃ t, exec (.fltProcess 0#8) s0 = .next t :=
  ⟨exists_next (by decide +kernel), by decide, exists_next (by decide +kernel)⟩

theorem witness_GuardsCheckInOrder :
    ((Instr.vRender 2#8).voice? = some 2#8 ∧ s1.cfg.nvoices ≤ (2#8).toNat)
    ∧ (s0.voiceExists 1#8 = true ∧ (s0.voice 1).flt.prepared = false ∧ (s0.voice 1).ready = false)
    ∧ ((s1.voice 0).flt.prepared = true ∧ (s1.voice 0).ready = true
      ∧ (s1.voice 0).flt.maxblock.toNat < (0xFFFFFFFF#32).toNat + (2#32).toNat
      ∧ (s1.voice 0).flt.maxblock.toNat < (1#32).toNat + (4#32).toNat)
    ∧ ((s1.voice 1).ready = true ∧ s1.a0.toNat + s1.a1.toNat ≤ (s1.voice 1).flt.maxblock.toNat
      ∧ (s1.voice 1).active = false)
    ∧ s0.pool.ready = false ∧ s1.pool.ready = true ∧ s1.pool.maxblock.toNat < (5#32).toNat := by decide +kernel

theorem witness_CommandsStopOnlyOnUnwritten :
    s1.Inv ∧ (Instr.fltProcess 0#8).usesMemory = true
    ∧ (match exec (.fltProcess 0#8) { s1 with scr := [] } with
      | .fault f => decide (f = .unwritten .scr 0)
      | _ => false) = true := ⟨s1_inv, rfl, by decide +kernel⟩

theorem witness_StepKeepsInvariant :
    (sBusy 0x43000000#32 []).Inv ∧ ∃ t, step (sBusy 0x43000000#32 []) = .next t :=
  ⟨by unfold State.Inv; decide +kernel, exists_next (by decide +kernel)⟩

theorem witness_StepKeepsIncrement :
    (sBusy 0x11000000#32 []).IncInv ∧ ∃ t, step (sBusy 0x11000000#32 []) = .next t :=
  ⟨s1_incInv, exists_next (by decide +kernel)⟩

theorem witness_PoolCommandsKeepPoolInvariant :
    s1.Inv ∧ s1.PoolInv ∧ s1.pool.tsctr.toNat + s1.events.length + 1 < 2 ^ 64
    ∧ ∃ t, exec (.pNoteon 70#7) s1 = .next t :=
  ⟨s1_inv, s1_poolInv, by decide, exists_next (by decide +kernel)⟩

theorem witness_CommandsLeaveHostStateAlone :
    (∃ t, exec (.pPrepare) s1 = .next t) ∧ s1.during = [] ∧ s1.pool.ready = true ∧ (s1.voice 1).ready = true
    ∧ Instr.pPrepare.usesMemory = false :=
  ⟨exists_next (by decide +kernel), rfl, rfl, rfl, rfl⟩

theorem witness_ResultRegisterIsKept :
    (∃ t, exec (.vUpdflt 0#8) s1 = .next t) ∧ (Instr.vUpdflt 0#8).returnsValue = false
    ∧ ∃ t e, exec (.envGetlevel 9#8) s1 = .next t ∧ t = raise e s1 :=
  ⟨exists_next (by decide +kernel), rfl, raise .badOperand s1, .badOperand, rfl, rfl⟩

theorem witness_VelocityHasNoEffect :
    (∃ t, exec (.vStart 0#8 60#7) s1 = .next t) ∧ (∃ t, exec (.pEvent .noteOff 60#7 true) s1 = .next t)
    ∧ ∃ t, exec (.pNoteon 60#7) sFull = .next t :=
  ⟨exists_next (by decide +kernel), exists_next (by decide +kernel), exists_next (by decide +kernel)⟩

end Sys2Proof.Tests
end

/-! ## The Voices of two states, one by one

A command acts on the Voices one by one. What it does to all of them is said by a relation between a Voice before and
the Voice of the same index after. -/

namespace Sys2Proof.Machine

/-- There are as many Voices in `t` as in `s`, and each is related to the one of its index in `s`. -/
structure EachVoice (R : Voice → Voice → Prop) (s t : State) : Prop where
  length : t.voices.length = s.voices.length
  rel    : ∀ (v : Nat) (y : Voice), t.voices[v]? = some y → ∃ x, s.voices[v]? = some x ∧ R x y

namespace EachVoice

variable {R R' : Voice → Voice → Prop} {s t u : State}

theorem of_voices_eq (hR : ∀ x, R x x) (h : t.voices = s.voices) : EachVoice R s t where
  length := by rw [h]
  rel v y hy := ⟨y, h ▸ hy, hR y⟩

theorem trans (hR : ∀ x y z, R x y → R y z → R x z) (h : EachVoice R s t) (k : EachVoice R t u) :
    EachVoice R s u where
  length := k.length.trans h.length
  rel v z hz := by
    obtain ⟨y, hy, hyz⟩ := k.rel v z hz
    obtain ⟨x, hx, hxy⟩ := h.rel v y hy
    exact ⟨x, hx, hR x y z hxy hyz⟩

theorem imp (hR : ∀ x y, R x y → R' x y) (h : EachVoice R s t) : EachVoice R' s t where
  length := h.length
  rel v y hy := (h.rel v y hy).imp fun _ hx => ⟨hx.1, hR _ _ hx.2⟩

theorem setVoice (hR : ∀ x, R x x) (v : Nat) (x : Voice) (h : R (s.voice v) x) :
    EachVoice R s (s.setVoice v x) where
  length := by simp
  rel u y hy := by
    rw [State.setVoice_voices, List.getElem?_set] at hy
    split at hy
    · next huv =>
      subst huv
      split at hy
      · next hlt =>
        cases hy
        refine ⟨s.voices[v], List.getElem?_eq_getElem hlt, ?_⟩
        simpa [State.voice, List.getD_eq_getElem?_getD, hlt] using h
      · cases hy
    · exact ⟨y, hy, hR y⟩

theorem of_mem (h : EachVoice R s t) {y : Voice} (hy : y ∈ t.voices) : ∃ x ∈ s.voices, R x y := by
  obtain ⟨v, hv⟩ := List.mem_iff_getElem?.1 hy
  obtain ⟨x, hx, hR⟩ := h.rel v y hv
  exact ⟨x, List.mem_of_getElem? hx, hR⟩

/-- The relation holds of `V[v]` for every index: beyond the Voices both states have the same reset Voice. -/
theorem voice (hR : ∀ x, R x x) (hc : t.cfg = s.cfg) (h : EachVoice R s t) (v : Nat) :
    R (s.voice v) (t.voice v) := by
  simp only [State.voice, List.getD_eq_getElem?_getD]
  cases ht : t.voices[v]? with
  | none =>
    have hs : s.voices[v]? = none := by rw [List.getElem?_eq_none_iff] at ht ⊢; exact h.length ▸ ht
    simpa [hs, hc] using hR _
  | some y =>
    obtain ⟨x, hx, hxy⟩ := h.rel v y ht
    simpa [hx] using hxy

end EachVoice

end Sys2Proof.Machine

/-! ## What rendering does

One judgement, `Runs`, says of each loop of the filter, the Voice and the mixer what holds when it ends and at which
faults it can stop. -/

namespace Sys2Proof.Machine

/-- What rendering may do to a Voice: move the phase, the envelope and the integrator states, and free the Voice
(rules R204, R225). -/
structure Voice.Rendered (x y : Voice) : Prop where
  osc   : ∃ p, y.osc = { x.osc with phase := p }
  flt   : ∃ a b, y.flt = { x.flt with s1 := a, s2 := b }
            ∧ a.length = x.flt.s1.length ∧ b.length = x.flt.s2.length
  ready : y.ready = x.ready
  ts    : y.ts = x.ts
  note  : (y.active = x.active ∧ y.note = x.note) ∨ (y.active = false ∧ y.note = none)

theorem Voice.Rendered.refl (x : Voice) : Voice.Rendered x x :=
  ⟨⟨_, rfl⟩, ⟨_, _, rfl, rfl, rfl⟩, rfl, rfl, .inl ⟨rfl, rfl⟩⟩

theorem Voice.Rendered.trans (x y z : Voice) (h : Voice.Rendered x y) (k : Voice.Rendered y z) :
    Voice.Rendered x z := by
  obtain ⟨⟨p, hp⟩, ⟨a, b, hf, ha, hb⟩, hr, ht, hn⟩ := h
  obtain ⟨⟨q, hq⟩, ⟨a', b', hf', ha', hb'⟩, hr', ht', hn'⟩ := k
  refine ⟨⟨q, by rw [hq, hp]⟩, ⟨a', b', by rw [hf', hf], ?_, ?_⟩, hr'.trans hr, ht'.trans ht, ?_⟩
  · rw [ha', hf, ha]
  · rw [hb', hf, hb]
  · rcases hn' with ⟨h1, h2⟩ | hfree
    · exact hn.imp (fun h => ⟨h1.trans h.1, h2.trans h.2⟩) (fun h => ⟨h1.trans h.1, h2.trans h.2⟩)
    · exact .inr hfree

theorem Voice.Rendered.nchan {x y : Voice} (h : Voice.Rendered x y) : y.flt.nchan = x.flt.nchan := by
  obtain ⟨a, b, hf, -, -⟩ := h.flt
  rw [hf]

/-- What rendering leaves alone: everything but the Voices and the sample memories, and a word once written stays
written. -/
structure RenderFrame (s t : State) : Prop where
  host    : SameHost s t
  r0      : t.r0 = s.r0
  pool    : t.pool = s.pool
  events  : t.events = s.events
  voices  : EachVoice Voice.Rendered s t
  written : ∀ sp a, (t.mem sp).read a = none → (s.mem sp).read a = none

theorem SameHost.trans {s t u : State} (h : SameHost s t) (k : SameHost t u) : SameHost s u := by
  simp only [SameHost, SameRecord, SameOperands, SameParams, SameModel] at *
  simp_all

namespace RenderFrame

theorem of_voiceFrame {v : Nat} {s t : State} (h : VoiceFrame v s t) (hv : EachVoice Voice.Rendered s t)
    (hw : ∀ sp a, (t.mem sp).read a = none → (s.mem sp).read a = none) : RenderFrame s t :=
  ⟨h.host, h.r0, h.pool, h.events, hv, hw⟩

theorem refl (s : State) : RenderFrame s s :=
  of_voiceFrame (VoiceFrame.refl 0 s) (.of_voices_eq Voice.Rendered.refl rfl) fun _ _ h => h

theorem cfg {s t : State} (h : RenderFrame s t) : t.cfg = s.cfg := by
  obtain ⟨-, -, -, hcfg, -⟩ := h.host
  exact hcfg

theorem trans {s t u : State} (h : RenderFrame s t) (k : RenderFrame t u) : RenderFrame s u where
  host := h.host.trans k.host
  r0 := k.r0.trans h.r0
  pool := k.pool.trans h.pool
  events := k.events.trans h.events
  voices := h.voices.trans Voice.Rendered.trans k.voices
  written sp a ha := h.written sp a (k.written sp a ha)

theorem setVoice (s : State) (v : Nat) (x : Voice) (h : Voice.Rendered (s.voice v) x) :
    RenderFrame s (s.setVoice v x) :=
  of_voiceFrame (setVoice_frame v s x) (.setVoice Voice.Rendered.refl v x h) (by simp)

/-- A write keeps every written word written. -/
theorem setMem_write (s : State) (sp : Space) (a : Nat) (w : Word) :
    RenderFrame s (s.setMem sp ((s.mem sp).write a w)) := by
  refine of_voiceFrame (setMem_frame 0 s sp _) (.of_voices_eq Voice.Rendered.refl (by simp)) fun sq b hb => ?_
  by_cases hsq : sq = sp
  · subst hsq
    rw [State.mem_setMem] at hb
    by_cases hba : b = a
    · subst hba; simp at hb
    · rwa [Memory.read_write_other _ _ _ _ hba] at hb
  · rwa [State.mem_setMem_other _ _ _ _ hsq] at hb

theorem voice {s t : State} (h : RenderFrame s t) (v : Nat) : Voice.Rendered (s.voice v) (t.voice v) :=
  h.voices.voice Voice.Rendered.refl h.cfg v

end RenderFrame

/-- A computation from `s` that may fault: if it ends, `post` holds; if it stops, then at a word not written in `s`, or
outside the sample memories, which cannot be while `fits`. -/
inductive Runs {α : Type} (fits : Prop) (post : α → Prop) (s : State) : Except Fault α → Prop
  | done {a : α} (h : post a) : Runs fits post s (.ok a)
  | unwritten {sp : Space} {a : Nat} (h : (s.mem sp).read a = none) : Runs fits post s (.error (.unwritten sp a))
  | outside {sp : Space} {c i : Nat} (h : ¬ fits) : Runs fits post s (.error (.outsideMemory sp c i))

namespace Runs

variable {α β : Type} {fits fits' : Prop} {post : α → Prop} {post' : β → Prop} {s u : State}

theorem ok {r : Except Fault α} (h : Runs fits post s r) {a : α} (hr : r = .ok a) : post a := by
  subst hr
  cases h with
  | done h => exact h

/-- A fault passes through unchanged. -/
theorem fault {r : Except Fault α} (h : Runs fits post s r) {e : Fault} (hr : r = .error e) :
    Runs fits post' s (.error e) := by
  subst hr
  cases h with
  | unwritten h => exact .unwritten h
  | outside h => exact .outside h

theorem mono {r : Except Fault α} (hfits : fits' → fits) {post' : α → Prop} (hpost : ∀ a, post a → post' a)
    (h : Runs fits post s r) : Runs fits' post' s r := by
  cases h with
  | done h => exact .done (hpost _ h)
  | unwritten h => exact .unwritten h
  | outside h => exact .outside (h ∘ hfits)

/-- The rest of a computation, said of the state in which it began. -/
theorem of_frame {r : Except Fault α} (hf : RenderFrame s u) (h : Runs fits post u r) : Runs fits post s r := by
  cases h with
  | done h => exact .done h
  | unwritten h => exact .unwritten (hf.written _ _ h)
  | outside h => exact .outside h

/-- The rest of a computation whose first part kept the frame. -/
theorem then_frame {r : Except Fault State} (hf : RenderFrame s u) (h : Runs fits (RenderFrame u) u r) :
    Runs fits (RenderFrame s) s r :=
  (h.of_frame hf).mono id fun _ => hf.trans

end Runs

theorem memRead_runs (sp : Space) (c i : Nat) (s : State) :
    Runs (sampleExists s.cfg c i = true) (fun _ => True) s (memRead sp c i s) := by
  unfold memRead
  split
  · split
    · exact .done trivial
    · exact .unwritten ‹_›
  · exact .outside ‹_›

theorem memWrite_runs (sp : Space) (c i : Nat) (w : F32) (s : State) :
    Runs (sampleExists s.cfg c i = true) (RenderFrame s) s (memWrite sp c i w s) := by
  unfold memWrite
  split
  · exact .done (RenderFrame.setMem_write s sp _ w)
  · exact .outside ‹_›

theorem memUpdate_runs (sp : Space) (c i : Nat) (f : F32 → F32) (s : State) :
    Runs (sampleExists s.cfg c i = true) (RenderFrame s) s (memUpdate sp c i f s) := by
  unfold memUpdate
  split
  · exact memWrite_runs sp c i _ s
  · next he => exact (memRead_runs sp c i s).fault he

/-- A loop runs if each of its passes does. -/
theorem forUp_runs (fits : Prop) (f : Nat → State → Except Fault State) (n start : Nat) (s : State)
    (hf : ∀ i u, start ≤ i → i < start + n → RenderFrame s u → Runs fits (RenderFrame u) u (f i u)) :
    Runs fits (RenderFrame s) s (forUp start n f s) := by
  induction n generalizing start s with
  | zero => exact .done (RenderFrame.refl s)
  | succ n ih =>
    have h0 := hf start s (le_refl _) (by omega) (RenderFrame.refl s)
    simp only [forUp]
    split
    · next s' hs' =>
      have hs := h0.ok hs'
      exact (ih (start + 1) s' fun i u h1 h2 hu => hf i u (by omega) (by omega) (hs.trans hu)).then_frame hs
    · next e he => exact h0.fault he

/-- The region of `nc` channels and `num` samples from `start` lies inside a sample memory (rules R62, R69). -/
def RegionFits (c : Config) (nc start num : Nat) : Prop := nc ≤ c.capChan ∧ start + num ≤ c.capBlock

theorem RegionFits.sampleExists {c : Config} {nc start num ch i : Nat} (h : RegionFits c nc start num)
    (hch : ch < nc) (hi : i < start + num) : sampleExists c ch i = true := by
  simp only [Machine.sampleExists, Bool.and_eq_true, decide_eq_true_eq]
  exact ⟨lt_of_lt_of_le hch h.1, lt_of_lt_of_le hi h.2⟩

/-- A loop over a region runs if its body does on each element. -/
theorem forRegion_runs (f : Nat → Nat → State → Except Fault State) (nc start num : Nat) (s : State)
    (hf : ∀ ch i u, Runs (sampleExists u.cfg ch i = true) (RenderFrame u) u (f ch i u)) :
    Runs (RegionFits s.cfg nc start num) (RenderFrame s) s (forUp 0 nc (fun ch => forUp start num (f ch)) s) := by
  refine forUp_runs _ _ _ _ s fun ch u _ hch hu => forUp_runs _ _ _ _ u fun i w _ hi hw => ?_
  refine (hf ch i w).mono (fun h => ?_) fun _ => id
  rw [(hu.trans hw).cfg]
  exact h.sampleExists (by omega) hi

theorem fltElement_runs (m : Fp) (k : Coef) (v ch i : Nat) (s : State) :
    Runs (sampleExists s.cfg ch i = true) (RenderFrame s) s (fltElement m k v ch i s) := by
  unfold fltElement
  split
  · next he => exact (memRead_runs .scr ch i s).fault he
  · next x _ =>
    simp only
    split
    · next he => exact (memWrite_runs .scr ch i _ s).fault he
    · next s' hs' =>
      have hw := (memWrite_runs .scr ch i _ s).ok hs'
      refine .done (hw.trans (RenderFrame.setVoice s' v _ (Voice.Rendered.trans _ (s.voice v) _ ?_ ?_)))
      · obtain ⟨-, rfl⟩ := (memWrite_ok_iff _ _ _ _ _ _).1 hs'
        simpa using Voice.Rendered.refl _
      · exact ⟨⟨_, rfl⟩, ⟨_, _, rfl, by simp, by simp⟩, rfl, rfl, .inl ⟨rfl, rfl⟩⟩

theorem fltProcess_runs (m : Fp) (v start num : Nat) (s : State) :
    Runs (RegionFits s.cfg (s.voice v).flt.nchan.toNat start num) (RenderFrame s) s
      (fltProcess m v start num s) :=
  forRegion_runs (fun ch i => fltElement _ _ v ch i) _ start num s fun ch i u => fltElement_runs _ _ v ch i u

theorem clearScratch_runs (nc start num : Nat) (s : State) :
    Runs (RegionFits s.cfg nc start num) (RenderFrame s) s (clearScratch nc start num s) :=
  forRegion_runs (fun ch i => memWrite .scr ch i fZero) nc start num s fun ch i u => memWrite_runs .scr ch i _ u

theorem mixElement_runs (m : Fp) (c i : Nat) (s : State) :
    Runs (sampleExists s.cfg c i = true) (RenderFrame s) s (mixElement m c i s) := by
  unfold mixElement
  split
  · exact memUpdate_runs .dest c i _ s
  · next he => exact (memRead_runs .scr c i s).fault he

theorem mixScratch_runs (m : Fp) (nc start len : Nat) (s : State) :
    Runs (RegionFits s.cfg nc start len) (RenderFrame s) s (mixScratch m nc start len s) :=
  forRegion_runs (fun ch i => mixElement _ ch i) nc start len s fun ch i u => mixElement_runs _ ch i u

theorem masterGain_runs (m : Fp) (num : Nat) (s : State) :
    Runs (RegionFits s.cfg s.pool.nchan.toNat 0 num) (RenderFrame s) s (masterGain m num s) :=
  forRegion_runs (fun ch i => memUpdate .dest ch i _) _ 0 num s fun ch i u => memUpdate_runs .dest ch i _ u

/-- Pulling the oscillator and the envelope once keeps what rendering keeps. -/
theorem Voice.rendered_pulled (c : Config) (m m' : Fp) (x : Voice) :
    Voice.Rendered x { x with osc := (oscNext c m x.osc).2, env := envNext m' x.env } :=
  ⟨⟨_, rfl⟩, ⟨_, _, rfl, rfl, rfl⟩, rfl, rfl, .inl ⟨rfl, rfl⟩⟩

theorem Voice.rendered_cleared (x : Voice) : Voice.Rendered x x.cleared :=
  ⟨⟨_, rfl⟩, ⟨_, _, rfl, rfl, rfl⟩, rfl, rfl, .inr ⟨rfl, rfl⟩⟩

/-- One sample updated in every channel of `SCR`, at an index of the region. -/
theorem updateChannels_runs (nc start num : Nat) {i : Nat} (hi : i < start + num) (f : Nat → F32 → F32)
    (s : State) :
    Runs (RegionFits s.cfg nc start num) (RenderFrame s) s (forUp 0 nc (fun c => memUpdate .scr c i (f c)) s) :=
  forUp_runs _ _ nc 0 s fun c u _ hc hu => (memUpdate_runs .scr c i (f c) u).mono
    (fun h => by rw [hu.cfg]; exact h.sampleExists (by omega) hi) fun _ => id

theorem renderSamples_runs (m : Fp) (v nc n i w : Nat) (s : State) :
    Runs (RegionFits s.cfg nc i n) (fun p => p.1 ≤ w + n ∧ RenderFrame s p.2) s (renderSamples m v nc n i w s) := by
  induction n generalizing i w s with
  | zero => exact .done ⟨le_refl _, RenderFrame.refl s⟩
  | succ n ih =>
    simp only [renderSamples]
    have hpull := RenderFrame.setVoice s v _
      (Voice.rendered_pulled s.cfg ((m.sub i).sub 0) ((m.sub i).sub 1) (s.voice v))
    have hadd := fun x : F32 => (updateChannels_runs nc i (n + 1) (Nat.lt_add_of_pos_right n.succ_pos)
      (fun c y => fadd (((m.sub i).sub 3).sub c) y x) _).then_frame hpull
    split
    · next e he => exact (hadd _).fault he
    · next s' hs' =>
      have hs := (hadd _).ok hs'
      split
      · refine ((ih (i + 1) (w + 1) s').of_frame hs).mono (fun h => ?_) fun p hp => ⟨by omega, hs.trans hp.2⟩
        rw [hs.cfg]
        exact ⟨h.1, by have := h.2; omega⟩
      · exact .done ⟨by omega, hs.trans (RenderFrame.setVoice s' v _ (Voice.rendered_cleared _))⟩

theorem renderVoice_runs (m : Fp) (v start num : Nat) (s : State) :
    Runs (RegionFits s.cfg (s.voice v).flt.nchan.toNat start num) (RenderFrame s) s
      (renderVoice m v start num s) := by
  unfold renderVoice
  split
  · simp only
    have h1 := clearScratch_runs (s.voice v).flt.nchan.toNat start num s
    split
    · next e he => exact h1.fault he
    · next s1 hs1 =>
      have f1 := h1.ok hs1
      have h2 := (renderSamples_runs (m.sub 0) v (s.voice v).flt.nchan.toNat num start 0 s1).of_frame f1
      rw [f1.cfg] at h2
      split
      · next e he => exact h2.fault he
      · next w s2 hs2 =>
        obtain ⟨hw, f2'⟩ := h2.ok hs2
        have f2 := f1.trans f2'
        have hlen : (if s.cfg.filterRange = .full then num else w) ≤ num := by
          simp only at hw
          split <;> omega
        generalize (if s.cfg.filterRange = .full then num else w) = len at hlen
        have hfits : RegionFits s.cfg (s.voice v).flt.nchan.toNat start num →
            RegionFits s.cfg (s.voice v).flt.nchan.toNat start len :=
          fun h => ⟨h.1, by have := h.2; omega⟩
        have h3 := (fltProcess_runs (m.sub 1) v start len s2).then_frame f2
        rw [f2.cfg, (f2.voice v).nchan] at h3
        have h3 := h3.mono hfits fun _ => id
        split
        · next e he => exact h3.fault he
        · next s3 hs3 =>
          have f3 := h3.ok hs3
          have h4 := (mixScratch_runs (m.sub 2) (s.voice v).flt.nchan.toNat start len s3).then_frame f3
          rw [f3.cfg] at h4
          exact h4.mono hfits fun _ => id
  · exact .done (RenderFrame.refl s)

end Sys2Proof.Machine

/-! ## What every command keeps -/

namespace Sys2Proof.Machine

/-! ### The Voice -/

/-- What every command but `SYS.RESET` keeps of a Voice, in a configuration `c`: a ready flag once set, the increment's
invariant (rule R32 (ii)), and a channel count within the capacity (rule R35). -/
structure Voice.Kept (c : Config) (x y : Voice) : Prop where
  ready : x.ready = true → y.ready = true
  inc   : x.osc.incOk c → y.osc.incOk c
  nchan : x.flt.nchan.toNat ≤ c.capChan → y.flt.nchan.toNat ≤ c.capChan

namespace Voice.Kept

variable {c : Config}

theorem refl (x : Voice) : Voice.Kept c x x := ⟨id, id, id⟩

theorem trans (x y z : Voice) (h : Voice.Kept c x y) (k : Voice.Kept c y z) : Voice.Kept c x z :=
  ⟨k.ready ∘ h.ready, k.inc ∘ h.inc, k.nchan ∘ h.nchan⟩

theorem of_rendered {x y : Voice} (h : Voice.Rendered x y) : Voice.Kept c x y where
  ready := h.ready ▸ id
  inc := by
    obtain ⟨p, hp⟩ := h.osc
    rw [hp]
    exact id
  nchan := h.nchan ▸ id

end Voice.Kept

/-- A recomputed increment satisfies its invariant (rules R32 (ii), R150). -/
theorem oscRecomputeInc_incOk (c : Config) (m : Fp) (o : Osc) (hm : m.ftz = c.ftz) :
    (oscRecomputeInc m o).incOk c := by
  intro hf hs
  refine ⟨m.path, ?_⟩
  have hf : fFinitePos o.freq = true := hf
  have hs : fFinitePos o.sr = true := hs
  simp [oscRecomputeInc, hf, hs, ← hm]

theorem Voice.kept_started (c : Config) (m : Fp) (n : BitVec 7) (ts : BitVec 64) (x : Voice) (hm : m.ftz = c.ftz) :
    Voice.Kept c x (x.started c m n ts) :=
  ⟨id, fun _ => oscRecomputeInc_incOk c m _ hm, id⟩

theorem Voice.kept_stopped (c : Config) (tail : Bool) (x : Voice) : Voice.Kept c x (x.stopped tail) := by
  unfold Voice.stopped
  simp only
  split <;> exact ⟨id, id, id⟩

theorem prepareArgsOk_nchan {c : Config} {sr : F32} {mb nc : Word} (h : prepareArgsOk c sr mb nc = true) :
    nc.toNat ≤ c.capChan := by
  simp only [prepareArgsOk, Bool.and_eq_true, decide_eq_true_eq] at h
  exact h.2

theorem Voice.kept_prepareAll (c : Config) (m : Fp) (sr : F32) (mb nc : Word) (x : Voice) (hm : m.ftz = c.ftz)
    (h : prepareArgsOk c sr mb nc = true) : Voice.Kept c x (x.prepareAll c m sr mb nc) :=
  ⟨fun _ => rfl, fun _ => oscRecomputeInc_incOk c m _ hm, fun _ => prepareArgsOk_nchan h⟩

/-! ### The state -/

/-- What every command but `SYS.RESET` keeps of the state; `mem` says that the command may touch the sample memories. -/
structure CommandFrame (mem : Bool) (s t : State) : Prop where
  cfg      : t.cfg = s.cfg
  operands : SameOperands s t
  params   : s.during = [] → t.during = [] ∧ t.params = s.params
  ready    : s.pool.ready = true → t.pool.ready = true
  nchan    : s.pool.nchan.toNat ≤ s.cfg.capChan → t.pool.nchan.toNat ≤ t.cfg.capChan
  voices   : EachVoice (Voice.Kept s.cfg) s t
  memory   : mem = false → ∀ sp, t.mem sp = s.mem sp

namespace CommandFrame

variable {mem : Bool} {s t u : State}

/-- A change of registers that the frame does not speak of. -/
theorem of_eq
    (h : t = { s with
      cmd := t.cmd, busy := t.busy, err := t.err, errcause := t.errcause, errcmd := t.errcmd, r0 := t.r0,
      params := t.params, snap := t.snap, events := t.events, during := t.during })
    (hp : s.during = [] → t.during = [] ∧ t.params = s.params) : CommandFrame mem s t := by
  rw [h]
  exact ⟨rfl, ⟨rfl, rfl, rfl, rfl⟩, hp, id, id, .of_voices_eq Voice.Kept.refl rfl, fun _ sp => by cases sp <;> rfl⟩

theorem refl (s : State) : CommandFrame mem s s := .of_eq rfl fun h => ⟨h, rfl⟩

theorem trans (h : CommandFrame mem s t) (k : CommandFrame mem t u) : CommandFrame mem s u where
  cfg := k.cfg.trans h.cfg
  operands := by
    obtain ⟨h0, h1, h2, h3⟩ := h.operands
    obtain ⟨k0, k1, k2, k3⟩ := k.operands
    exact ⟨k0.trans h0, k1.trans h1, k2.trans h2, k3.trans h3⟩
  params hd := by
    obtain ⟨htd, htp⟩ := h.params hd
    obtain ⟨hud, hup⟩ := k.params htd
    exact ⟨hud, hup.trans htp⟩
  ready := k.ready ∘ h.ready
  nchan := k.nchan ∘ h.nchan
  voices := h.voices.trans Voice.Kept.trans (h.cfg ▸ k.voices)
  memory hm sp := (k.memory hm sp).trans (h.memory hm sp)

theorem setVoice (s : State) (v : Nat) (x : Voice) (h : Voice.Kept s.cfg (s.voice v) x) :
    CommandFrame mem s (s.setVoice v x) where
  cfg := rfl
  operands := ⟨rfl, rfl, rfl, rfl⟩
  params h := ⟨h, rfl⟩
  ready := id
  nchan := id
  voices := .setVoice Voice.Kept.refl v x h
  memory _ sp := by cases sp <;> rfl

theorem setR0 (s : State) (w : Word) : CommandFrame mem s (s.setR0 w) := .of_eq rfl fun h => ⟨h, rfl⟩

theorem raise (e : CmdError) (s : State) : CommandFrame mem s (raise e s) := .of_eq rfl fun h => ⟨h, rfl⟩

theorem of_renderFrame (h : RenderFrame s t) : CommandFrame true s t where
  cfg := h.cfg
  operands := h.host.2.1
  params hd := by
    obtain ⟨-, -, ⟨hp, -⟩, -, -, hduring, -⟩ := h.host
    exact ⟨hduring.trans hd, hp⟩
  ready := h.pool ▸ id
  nchan := by rw [h.pool, h.cfg]; exact id
  voices := h.voices.imp fun _ _ => Voice.Kept.of_rendered
  memory hm := by cases hm

theorem toMemory (h : CommandFrame false s t) : CommandFrame mem s t :=
  ⟨h.cfg, h.operands, h.params, h.ready, h.nchan, h.voices, fun _ => h.memory rfl⟩

/-! ### The common shapes of a command -/

theorem of_raised {e : CmdError} (h : raised e s = .next t) : CommandFrame mem s t := by
  cases h
  exact raise e s

theorem of_onVoice {v : BitVec 8} {body : Nat → Out} (h : onVoice v s body = .next t)
    (hb : body v.toNat = .next t → CommandFrame mem s t) : CommandFrame mem s t := by
  rcases onVoice_next v s t body h with ⟨-, h⟩ | ⟨-, rfl⟩
  · exact hb h
  · exact raise .badOperand s

theorem of_updVoice {v : BitVec 8} {f : Voice → Voice} (h : updVoice v s f = .next t)
    (hf : ∀ x, Voice.Kept s.cfg x (f x)) : CommandFrame mem s t :=
  of_onVoice h fun h => by
    cases h
    exact setVoice s _ _ (hf _)

theorem of_queryVoice {v : BitVec 8} {f : Voice → Word} (h : queryVoice v s f = .next t) : CommandFrame mem s t :=
  of_onVoice h fun h => by
    cases h
    exact setR0 s _

/-- A guard of a command: the error, or the rest of the command. -/
theorem of_ite {b : Prop} [Decidable b] {x y : Out} (h : (if b then x else y) = .next t)
    (hx : b → x = .next t → CommandFrame mem s t) (hy : ¬ b → y = .next t → CommandFrame mem s t) :
    CommandFrame mem s t := by
  split at h
  · exact hx ‹_› h
  · exact hy ‹_› h

/-- A command that changes one Voice and returns a value. -/
theorem setVoice_setR0 (s : State) (v : Nat) (x : Voice) (w : Word) (h : Voice.Kept s.cfg (s.voice v) x) :
    CommandFrame mem s ((s.setVoice v x).setR0 w) :=
  (setVoice s v x h).trans (setR0 _ w)

end CommandFrame

/-! ### The pool's operations -/

theorem startNote_commandFrame (m : Fp) (v : Nat) (n : BitVec 7) (s : State) (hm : m.ftz = s.cfg.ftz) :
    CommandFrame false s (startNote m v n s) where
  cfg := rfl
  operands := ⟨rfl, rfl, rfl, rfl⟩
  params h := ⟨h, rfl⟩
  ready := id
  nchan := id
  voices := (EachVoice.setVoice Voice.Kept.refl v _ (Voice.kept_started s.cfg m n s.pool.tsctr _ hm)).trans
    Voice.Kept.trans (.of_voices_eq Voice.Kept.refl rfl)
  memory _ sp := by cases sp <;> rfl

theorem clearVoice_commandFrame (v : Nat) (s : State) : CommandFrame false s (clearVoice v s) :=
  .setVoice s v _ ⟨id, id, id⟩

theorem stopNote_commandFrame (tail : Bool) (v : Nat) (s : State) : CommandFrame false s (stopNote tail v s) :=
  .setVoice s v _ (Voice.kept_stopped s.cfg tail _)

theorem allocNoteOn_commandFrame (m : Fp) (n : BitVec 7) (s : State) (hm : m.ftz = s.cfg.ftz) :
    CommandFrame false s (allocNoteOn m n s) := by
  unfold allocNoteOn
  split
  · exact startNote_commandFrame m _ n s hm
  · split
    · exact startNote_commandFrame m _ n s hm
    · exact (clearVoice_commandFrame _ s).trans (startNote_commandFrame m _ n _ hm)

theorem routeNoteOff_commandFrame (n : BitVec 7) (tail : Bool) (s : State) :
    CommandFrame false s (routeNoteOff n tail s) := by
  unfold routeNoteOff
  split
  · exact stopNote_commandFrame tail _ s
  · exact .refl s

theorem dispatchEvent_commandFrame (m : Fp) (e : EventRec) (s : State) (hm : m.ftz = s.cfg.ftz) :
    CommandFrame false s (dispatchEvent m e s) := by
  unfold dispatchEvent
  split
  · exact allocNoteOn_commandFrame m _ s hm
  · exact routeNoteOff_commandFrame _ _ s

theorem dispatchList_commandFrame (m : Fp) (i : Nat) (l : List EventRec) (s : State) (hm : m.ftz = s.cfg.ftz) :
    CommandFrame false s (dispatchList m i l s) := by
  induction l generalizing i s with
  | nil => exact .refl s
  | cons e rest ih =>
    have he := dispatchEvent_commandFrame (m.sub i) e s hm
    exact he.trans (ih (i + 1) _ (hm.trans (by rw [he.cfg])))

theorem dispatchEvents_commandFrame (m : Fp) (s : State) (hm : m.ftz = s.cfg.ftz) :
    CommandFrame false s (dispatchEvents m s) := by
  have h : CommandFrame false s { s with events := [] } := .of_eq rfl fun h => ⟨h, rfl⟩
  exact h.trans (dispatchList_commandFrame m 0 s.events _ hm)

theorem applySnapshot_commandFrame (s : State) : CommandFrame false s (applySnapshot s) :=
  eachUp_keeps (CommandFrame false s) _ _ _ s
    (fun v t _ _ ht => ht.trans (.setVoice t v _ ⟨id, id, id⟩)) (.refl s)

theorem foldl_landWrite (l : List CtlWrite) (s : State) :
    l.foldl landWrite s = { s with params := l.foldl (fun p x => p.set x.k x.w) s.params } := by
  induction l generalizing s with
  | nil => rfl
  | cons x l ih => rw [List.foldl_cons, ih]; rfl

/-- What the latch and the writes that meet it leave alone: everything but `P`, `S` and the writes still to land, and
`P` too while the control host is quiet (rules R66, R257). -/
structure LatchFrame (s t : State) : Prop where
  others : t = { s with params := t.params, snap := t.snap, during := t.during }
  quiet  : s.during = [] → t.during = [] ∧ t.params = s.params

theorem LatchFrame.refl (s : State) : LatchFrame s s := ⟨rfl, fun h => ⟨h, rfl⟩⟩

theorem LatchFrame.trans {s t u : State} (h : LatchFrame s t) (k : LatchFrame t u) : LatchFrame s u where
  others := by
    have hu := k.others
    rw [h.others] at hu
    exact hu
  quiet hd := by
    obtain ⟨htd, htp⟩ := h.quiet hd
    obtain ⟨hud, hup⟩ := k.quiet htd
    exact ⟨hud, hup.trans htp⟩

theorem LatchFrame.filterDuring (p : CtlWrite → Bool) (s : State) :
    LatchFrame s { s with during := s.during.filter p } :=
  ⟨rfl, fun hd => ⟨by simp [hd], rfl⟩⟩

theorem LatchFrame.clearDuring (s : State) : LatchFrame s { s with during := [] } :=
  ⟨rfl, fun _ => ⟨rfl, rfl⟩⟩

theorem LatchFrame.landWrites (p : CtlWrite → Bool) (s : State) :
    LatchFrame s ((s.during.filter p).foldl landWrite s) := by
  rw [foldl_landWrite]
  exact ⟨rfl, fun hd => ⟨hd, by simp [hd]⟩⟩

theorem landSlot_latchFrame (k : Nat) (s : State) : LatchFrame s (landSlot k s) := .landWrites _ s

theorem latchRead_latchFrame (k : Fin 8) (s : State) : LatchFrame s (latchRead k s) :=
  (landSlot_latchFrame k.val s).trans ⟨rfl, fun h => ⟨h, rfl⟩⟩

theorem latchSnapshot_latchFrame (s : State) : LatchFrame s (latchSnapshot s) := by
  unfold latchSnapshot
  have h := (((((((latchRead_latchFrame 0 s).trans (latchRead_latchFrame 1 _)).trans
    (latchRead_latchFrame 2 _)).trans (latchRead_latchFrame 3 _)).trans (latchRead_latchFrame 4 _)).trans
    (latchRead_latchFrame 5 _)).trans (latchRead_latchFrame 6 _)).trans (latchRead_latchFrame 7 _)
  exact h.trans (.filterDuring _ _)

theorem landRest_latchFrame (s : State) : LatchFrame s (landRest s) := by
  have h := eachUp_keeps (LatchFrame s) landSlot 8 0 s
    (fun k t _ _ ht => ht.trans (landSlot_latchFrame k t)) (.refl s)
  exact h.trans ((LatchFrame.landWrites _ _).trans (.clearDuring _))

theorem LatchFrame.commandFrame {s t : State} (h : LatchFrame s t) : CommandFrame false s t := by
  refine .of_eq ?_ h.quiet
  rw [h.others]

theorem preparePool_commandFrame (m : Fp) (sr : F32) (mb nc : Word) (s : State) (hm : m.ftz = s.cfg.ftz)
    (h : prepareArgsOk s.cfg sr mb nc = true) : CommandFrame false s (preparePool m sr mb nc s) := by
  have h1 : CommandFrame false s { s with pool := { s.pool with sr := sr, maxblock := mb, nchan := nc } } :=
    ⟨rfl, ⟨rfl, rfl, rfl, rfl⟩, fun h => ⟨h, rfl⟩, id, fun _ => prepareArgsOk_nchan h,
      .of_voices_eq Voice.Kept.refl rfl, fun _ sp => by cases sp <;> rfl⟩
  have h2 := eachUp_keeps (CommandFrame false s)
    (fun v t => t.setVoice v ((t.voice v).prepareAll t.cfg (m.sub v) sr mb nc)) s.cfg.nvoices 0 _
    (fun v t _ _ ht => ht.trans (.setVoice t v _
      (Voice.kept_prepareAll t.cfg (m.sub v) sr mb nc _ (hm.trans (by rw [ht.cfg])) (ht.cfg ▸ h)))) h1
  exact h2.trans ⟨rfl, ⟨rfl, rfl, rfl, rfl⟩, fun h => ⟨h, rfl⟩, fun _ => rfl, id, .of_voices_eq Voice.Kept.refl rfl,
    fun _ sp => by cases sp <;> rfl⟩

/-! ### `P.RENDER` -/

/-- The state of `P.RENDER` when its first Voice is rendered: parameters latched and applied, events dispatched
(rule R259). -/
def State.atRender (m : Fp) (s : State) : State := dispatchEvents (m.sub 0) (applySnapshot (latchSnapshot s))

theorem atRender_commandFrame (m : Fp) (s : State) (hm : m.ftz = s.cfg.ftz) : CommandFrame false s (s.atRender m) := by
  have h := (latchSnapshot_latchFrame s).commandFrame.trans (applySnapshot_commandFrame _)
  exact h.trans (dispatchEvents_commandFrame _ _ (hm.trans (by rw [h.cfg])))

/-- Every Voice's channels and the block fit the sample memories. -/
def State.BlockFits (s : State) (num : Nat) : Prop :=
  (∀ v, (s.voice v).flt.nchan.toNat ≤ s.cfg.capChan) ∧ s.pool.nchan.toNat ≤ s.cfg.capChan ∧ num ≤ s.cfg.capBlock

theorem State.BlockFits.of_renderFrame {s t : State} {num : Nat} (hf : RenderFrame s t) (h : s.BlockFits num) :
    t.BlockFits num := by
  obtain ⟨hv, hp, hb⟩ := h
  refine ⟨fun v => ?_, ?_, ?_⟩
  · rw [(hf.voice v).nchan, hf.cfg]; exact hv v
  · rw [hf.pool, hf.cfg]; exact hp
  · rw [hf.cfg]; exact hb

theorem renderIfReady_runs (m : Fp) (num v : Nat) (s : State) :
    Runs (s.BlockFits num) (RenderFrame s) s (renderIfReady m num v s) := by
  unfold renderIfReady
  split
  · exact (renderVoice_runs m v 0 num s).mono (fun h => ⟨h.1 v, by simpa using h.2.2⟩) fun _ => id
  · exact .done (RenderFrame.refl s)

theorem renderBlock_runs (m : Fp) (num : Nat) (s : State) :
    Runs ((s.atRender m).BlockFits num) (RenderFrame (s.atRender m)) (s.atRender m) (renderBlock m num s) := by
  unfold renderBlock State.atRender
  simp only
  generalize dispatchEvents (m.sub 0) (applySnapshot (latchSnapshot s)) = s1
  have hloop := forUp_runs (s1.BlockFits num) (fun v => renderIfReady ((m.sub 1).sub v) num v) s1.cfg.nvoices 0 s1
    fun v u _ _ hu => (renderIfReady_runs _ num v u).mono (.of_renderFrame hu) fun _ => id
  split
  · next s2 hs2 =>
    have h2 := hloop.ok hs2
    exact ((masterGain_runs (m.sub 2) num s2).then_frame h2).mono
      (fun h => by
        obtain ⟨-, hp, hb⟩ := State.BlockFits.of_renderFrame h2 h
        exact ⟨hp, by simpa using hb⟩) fun _ => id
  · next e he => exact hloop.fault he

end Sys2Proof.Machine

/-! ### Every command -/

namespace Sys2Proof.Machine

theorem execOscSetwave_commandFrame {v : BitVec 8} {wsel : BitVec 2} {s t : State}
    (h : execOscSetwave v wsel s = .next t) : CommandFrame false s t := by
  refine .of_onVoice h fun h => ?_
  split at h
  · cases h
    exact .setVoice s _ _ ⟨id, id, id⟩
  · exact .of_raised h

theorem execOscNext_commandFrame {v : BitVec 8} {s t : State} (h : execOscNext v s = .next t) :
    CommandFrame false s t :=
  .of_onVoice h fun h => by
    cases h
    exact .setVoice_setR0 s _ _ _ ⟨id, id, id⟩

theorem execEnvNext_commandFrame {v : BitVec 8} {s t : State} (h : execEnvNext v s = .next t) :
    CommandFrame false s t :=
  .of_onVoice h fun h => by
    cases h
    exact .setVoice_setR0 s _ _ _ ⟨id, id, id⟩

theorem execFltPrepare_commandFrame {v : BitVec 8} {s t : State} (h : execFltPrepare v s = .next t) :
    CommandFrame false s t :=
  .of_onVoice h fun h => .of_ite h
    (fun ha h => by
      cases h
      exact .setVoice s _ _ ⟨id, id, fun _ => prepareArgsOk_nchan ha⟩)
    fun _ => .of_raised

theorem execFltProcess_commandFrame {v : BitVec 8} {s t : State} (h : execFltProcess v s = .next t) :
    CommandFrame true s t :=
  .of_onVoice h fun h => .of_ite h (fun _ => .of_raised) fun _ h => .of_ite h (fun _ => .of_raised) fun _ h =>
    .of_renderFrame ((fltProcess_runs _ _ _ _ s).ok ((finish_next_iff _ t).1 h))

theorem execVPrepare_commandFrame {v : BitVec 8} {s t : State} (h : execVPrepare v s = .next t) :
    CommandFrame false s t :=
  .of_onVoice h fun h => .of_ite h
    (fun ha h => by
      cases h
      exact .setVoice s _ _ (Voice.kept_prepareAll s.cfg s.fp _ _ _ _ rfl ha))
    fun _ => .of_raised

theorem execVRender_commandFrame {v : BitVec 8} {s t : State} (h : execVRender v s = .next t) :
    CommandFrame true s t :=
  .of_onVoice h fun h => .of_ite h (fun _ => .of_raised) fun _ h => .of_ite h (fun _ => .of_raised) fun _ h =>
    .of_renderFrame ((renderVoice_runs _ _ _ _ s).ok ((finish_next_iff _ t).1 h))

theorem execPPrepare_commandFrame {s t : State} (h : execPPrepare s = .next t) : CommandFrame false s t :=
  .of_ite h
    (fun ha h => by
      cases h
      exact preparePool_commandFrame s.fp _ _ _ s rfl ha)
    fun _ => .of_raised

/-- All that `P.RENDER` can do: an error, or the block. -/
theorem execPRender_next {s t : State} (h : execPRender s = .next t) :
    (∃ e, t = raise e s) ∨ renderBlock s.fp s.a0.toNat s = .ok t := by
  unfold execPRender at h
  split at h
  · cases h; exact .inl ⟨_, rfl⟩
  · split at h
    · cases h; exact .inl ⟨_, rfl⟩
    · exact .inr ((finish_next_iff _ t).1 h)

theorem execPRender_commandFrame {s t : State} (h : execPRender s = .next t) : CommandFrame true s t := by
  rcases execPRender_next h with ⟨e, rfl⟩ | h
  · exact .raise e s
  · have h0 : CommandFrame true s (s.atRender s.fp) := (atRender_commandFrame s.fp s rfl).toMemory
    have h1 := (renderBlock_runs s.fp s.a0.toNat s).ok h
    exact h0.trans (.of_renderFrame h1)

/-- All that `P.EVENT` can do: an error, or one more record in the queue. -/
theorem execPEvent_next {kind : EventKind} {n : BitVec 7} {tail : Bool} {s t : State}
    (h : execPEvent kind n tail s = .next t) :
    t = raise .eventQueueFull s
    ∨ t = { s with events := s.events ++ [{ kind := kind, note := n, tail := tail }] } := by
  unfold execPEvent at h
  split at h
  · cases h; exact .inl rfl
  · cases h; exact .inr rfl

theorem execPEvent_commandFrame {kind : EventKind} {n : BitVec 7} {tail : Bool} {s t : State}
    (h : execPEvent kind n tail s = .next t) : CommandFrame false s t := by
  rcases execPEvent_next h with rfl | rfl
  · exact .raise _ s
  · exact .of_eq rfl fun h => ⟨h, rfl⟩

theorem exec_commandFrame (i : Instr) (s t : State) (h : exec i s = .next t) (hi : i ≠ .sysReset) :
    CommandFrame i.usesMemory s t := by
  cases i with
  | sysReset => exact absurd rfl hi
  | oscSetwave v wsel => exact execOscSetwave_commandFrame h
  | oscSetfreq v =>
    exact .of_updVoice (f := fun x => { x with osc := oscSetFreq s.fp s.a0 x.osc }) h
      fun _ => ⟨id, fun _ => oscRecomputeInc_incOk _ _ _ rfl, id⟩
  | oscSetsr v =>
    exact .of_updVoice (f := fun x => { x with osc := oscSetSr s.fp s.a0 x.osc }) h
      fun _ => ⟨id, fun _ => oscRecomputeInc_incOk _ _ _ rfl, id⟩
  | oscReset v =>
    simp only [exec, execOscReset] at h
    exact .of_updVoice h fun _ => ⟨id, id, id⟩
  | oscNext v => exact execOscNext_commandFrame h
  | envNoteon v =>
    simp only [exec, execEnvNoteon] at h
    exact .of_updVoice h fun _ => ⟨id, id, id⟩
  | envNoteoff v =>
    simp only [exec, execEnvNoteoff] at h
    exact .of_updVoice h fun _ => ⟨id, id, id⟩
  | envNext v => exact execEnvNext_commandFrame h
  | envSetparams v =>
    simp only [exec, execEnvSetparams] at h
    exact .of_updVoice h fun _ => ⟨id, id, id⟩
  | envSetsr v =>
    simp only [exec, execEnvSetsr] at h
    exact .of_updVoice h fun _ => ⟨id, id, id⟩
  | envIsactive v =>
    simp only [exec, execEnvIsactive] at h
    exact .of_queryVoice h
  | envGetlevel v =>
    simp only [exec, execEnvGetlevel] at h
    exact .of_queryVoice h
  | envGetstage v =>
    simp only [exec, execEnvGetstage] at h
    exact .of_queryVoice h
  | fltPrepare v => exact execFltPrepare_commandFrame h
  | fltReset v =>
    simp only [exec, execFltReset] at h
    exact .of_updVoice h fun _ => ⟨id, id, id⟩
  | fltSetcutoff v =>
    simp only [exec, execFltSetcutoff] at h
    exact .of_updVoice h fun _ => ⟨id, id, id⟩
  | fltSetres v =>
    simp only [exec, execFltSetres] at h
    exact .of_updVoice h fun _ => ⟨id, id, id⟩
  | fltProcess v => exact execFltProcess_commandFrame h
  | vPrepare v => exact execVPrepare_commandFrame h
  | vStart v note =>
    simp only [exec, execVStart] at h
    exact .of_onVoice h fun h => by cases h; exact startNote_commandFrame _ _ note s rfl
  | vStop v tail =>
    simp only [exec, execVStop] at h
    exact .of_onVoice h fun h => by cases h; exact stopNote_commandFrame tail _ s
  | vRender v => exact execVRender_commandFrame h
  | vUpdosc v widx =>
    simp only [exec, execVUpdosc] at h
    exact .of_updVoice h fun _ => ⟨id, id, id⟩
  | vUpdflt v =>
    simp only [exec, execVUpdflt] at h
    exact .of_updVoice h fun _ => ⟨id, id, id⟩
  | vUpdadsr v =>
    simp only [exec, execVUpdadsr] at h
    exact .of_updVoice h fun _ => ⟨id, id, id⟩
  | vQuery v =>
    simp only [exec, execVQuery] at h
    exact .of_queryVoice h
  | pPrepare => exact execPPrepare_commandFrame h
  | pNoteon note => cases h; exact allocNoteOn_commandFrame _ note s rfl
  | pNoteoff note tail => cases h; exact routeNoteOff_commandFrame note tail s
  | pRender => exact execPRender_commandFrame h
  | pEvent kind note tail => exact execPEvent_commandFrame h

/-! ### Every step keeps the increment's invariant -/

theorem CommandFrame.incInv {mem : Bool} {s t : State} (h : CommandFrame mem s t) (hs : s.IncInv) : t.IncInv := by
  intro y hy
  obtain ⟨x, hx, hk⟩ := h.voices.of_mem hy
  rw [h.cfg]
  exact hk.inc (hs x hx)

/-- `+0.0` is not a frequency: the reset Voice satisfies the invariant of its increment. -/
theorem Osc.incOk_reset (c : Config) : (Osc.reset c).incOk c := by
  intro hf
  exact absurd (show fFinitePos fZero = true from hf) (by decide)

theorem resetOf_incInv (c : Config) : (State.resetOf c).IncInv := by
  intro x hx
  rw [List.eq_of_mem_replicate hx]
  exact Osc.incOk_reset c

/-- The invariant speaks of the configuration and the Voices only. -/
theorem State.IncInv.of_eq {s t : State} (h : s.IncInv) (hc : t.cfg = s.cfg) (hv : t.voices = s.voices) : t.IncInv := by
  unfold State.IncInv
  rw [hc, hv]
  exact h

theorem LatchFrame.incInv {s t : State} (h : LatchFrame s t) (hs : s.IncInv) : t.IncInv :=
  h.commandFrame.incInv hs

theorem exec_incInv {i : Instr} {s t : State} (h : exec i s = .next t) (hs : s.IncInv) : t.IncInv := by
  by_cases hi : i = .sysReset
  · subst hi
    cases h
    exact (resetOf_incInv s.cfg).of_eq rfl rfl
  · exact (exec_commandFrame i s t h hi).incInv hs

theorem runCommand_incInv {s t : State} (h : runCommand s = .next t) (hs : s.IncInv) : t.IncInv := by
  unfold runCommand at h
  split at h
  · exact exec_incInv h hs
  · exact (CommandFrame.of_raised (mem := false) h).incInv hs

theorem complete_next {o : Out} {t : State} (h : complete o = .next t) :
    ∃ u, o = .next u ∧ t = completeCommand u := by
  cases o <;> simp only [complete, Host.Outcome.next.injEq, reduceCtorEq] at h
  exact ⟨_, rfl, h.symm⟩

theorem completeCommand_incInv {s : State} (hs : s.IncInv) : (completeCommand s).IncInv := by
  have h := (landRest_latchFrame s).incInv hs
  unfold completeCommand
  generalize landRest s = u at h
  exact h.of_eq rfl rfl

theorem engineMove_incInv {during : List CtlWrite} {s t : State} (h : engineMove during s = .next t) (hs : s.IncInv) :
    t.IncInv := by
  unfold engineMove at h
  split at h
  · obtain ⟨u, hu, rfl⟩ := complete_next h
    exact completeCommand_incInv (runCommand_incInv hu hs)
  · simp only [engineIdle, Host.Outcome.next.injEq] at h
    subst h
    exact (landRest_latchFrame _).incInv (hs.of_eq rfl rfl)

theorem regWriteIdle_cfg_voices (n : Nat) (w : Word) (s : State) :
    (regWriteIdle n w s).cfg = s.cfg ∧ (regWriteIdle n w s).voices = s.voices := by
  unfold regWriteIdle
  split <;> exact ⟨rfl, rfl⟩

/-- No host transaction touches the configuration or a Voice (rules R46, R60). -/
theorem hostTxn_cfg_voices {x : HostTxn} {s t : State} (h : hostTxn x s = .next t) :
    t.cfg = s.cfg ∧ t.voices = s.voices := by
  cases x with
  | regWrite n w =>
    simp only [hostTxn, hostRegWrite] at h
    split at h
    · split at h
      · cases h; exact ⟨rfl, rfl⟩
      · split at h
        · cases h
        · cases h; exact regWriteIdle_cfg_voices n w s
    · cases h
  | regRead n =>
    simp only [hostTxn, hostRegRead] at h
    split at h
    · cases h; exact ⟨rfl, rfl⟩
    · cases h
  | memWrite sp c i w =>
    simp only [hostTxn, hostMemWrite] at h
    split at h
    · cases h
    · split at h
      · obtain ⟨-, rfl⟩ := (memWrite_ok_iff sp c i w s t).1 ((finish_next_iff _ t).1 h)
        simp
      · cases h
  | memRead sp c i =>
    simp only [hostTxn, hostMemRead] at h
    split at h
    · cases h
    · split at h
      · split at h
        · cases h; exact ⟨rfl, rfl⟩
        · cases h
      · cases h

/-- Settles O56: a command keeps every Voice's increment (`exec_commandFrame`), a reset leaves no positive frequency,
and no other move touches a Voice. -/
theorem stepKeepsIncrement : Obligations.StepKeepsIncrement := by
  intro s t hs h
  unfold step at h
  split at h
  · obtain ⟨hc, hv⟩ := hostTxn_cfg_voices h
    exact hs.of_eq hc hv
  · exact engineMove_incInv h (hs.of_eq rfl rfl)
  · cases h
    exact (resetOf_incInv s.cfg).of_eq rfl rfl
  · split at h
    · exact engineMove_incInv h hs
    · cases h
      exact hs

/-- Settles O58, from the frame every command keeps. -/
theorem commandsLeaveHostStateAlone : Obligations.CommandsLeaveHostStateAlone := by
  intro i s t h hi
  have hf := exec_commandFrame i s t h hi
  refine ⟨hf.cfg, hf.operands, fun hd => (hf.params hd).2, hf.ready,
    fun v => (hf.voices.voice Voice.Kept.refl hf.cfg v).ready, fun hm => ⟨fun a => ?_, fun a => ?_⟩⟩
  · rw [hf.memory hm]
  · rw [hf.memory hm]

end Sys2Proof.Machine

/-! ## The machine invariant -/

namespace Sys2Proof.Machine

/-- The machine invariant, part by part. -/
theorem State.inv_iff (s : State) :
    s.Inv ↔ s.cfg.wf = true ∧ s.voices.length = s.cfg.nvoices ∧ (∀ x ∈ s.voices, x.wf s.cfg = true)
      ∧ s.pool.wf s.cfg = true ∧ (s.pool.ready = true → ∀ x ∈ s.voices, x.ready = true)
      ∧ s.events.length ≤ s.cfg.evqCap
      ∧ (s.dest.wf = true ∧ s.dest.within s.cfg = true) ∧ s.scr.wf = true ∧ s.scr.within s.cfg = true := by
  simp only [State.Inv, State.wf, Bool.and_eq_true, Bool.or_eq_true, decide_eq_true_eq, List.all_eq_true,
    Bool.not_eq_true', and_assoc, ← Bool.not_eq_true, ← imp_iff_not_or]

theorem Voice.reset_wf (c : Config) : (Voice.reset c).wf c = true := by
  simp [Voice.wf, Flt.wf, Voice.reset, Flt.reset]

/-- Under the invariant `V[v]` is well formed for every index. -/
theorem State.Inv.voice_wf {s : State} (h : s.Inv) (v : Nat) : (s.voice v).wf s.cfg = true := by
  obtain ⟨-, -, hv, -⟩ := (State.inv_iff s).1 h
  simp only [State.voice, List.getD_eq_getElem?_getD]
  cases hx : s.voices[v]? with
  | none => exact Voice.reset_wf s.cfg
  | some x => exact hv x (List.mem_of_getElem? hx)

theorem Voice.wf_sizes {c : Config} {x : Voice} (h : x.wf c = true) :
    x.flt.maxblock.toNat ≤ c.capBlock ∧ x.flt.nchan.toNat ≤ c.capChan := by
  simp only [Voice.wf, Flt.wf, Bool.and_eq_true, decide_eq_true_eq] at h
  obtain ⟨⟨⟨⟨⟨-, hmax⟩, hchan⟩, -⟩, -⟩, -⟩ := h
  exact ⟨hmax, hchan⟩

theorem Pool.wf_sizes {c : Config} {p : Pool} (h : p.wf c = true) :
    p.maxblock.toNat ≤ c.capBlock ∧ p.nchan.toNat ≤ c.capChan := by
  simp only [Pool.wf, Bool.and_eq_true, decide_eq_true_eq] at h
  obtain ⟨hsizes, -⟩ := h
  exact hsizes

/-! ### Every command completes, or stops at an unwritten word -/

/-- What holds of the error for a missing Voice and of a command's body holds of the command. -/
theorem onVoice_satisfies (P : Out → Prop) {v : BitVec 8} {s : State} {body : Nat → Out}
    (hmissing : P (raised .badOperand s)) (hbody : P (body v.toNat)) : P (onVoice v s body) := by
  cases hv : s.voiceExists v with
  | true => rwa [onVoice_exists v s body hv]
  | false => rwa [onVoice_missing v s body hv]

/-- The outcome of a command from `s` is a next state, or a stop at a sample-memory word not written in `s`. -/
def Completes (s : State) (o : Out) : Prop :=
  (∃ t, o = .next t) ∨ ∃ sp a, o = .fault (.unwritten sp a) ∧ (s.mem sp).read a = none

theorem Completes.next (s t : State) : Completes s (.next t) := .inl ⟨t, rfl⟩

theorem Completes.of_onVoice {v : BitVec 8} {s : State} {body : Nat → Out} (h : Completes s (body v.toNat)) :
    Completes s (onVoice v s body) :=
  onVoice_satisfies (Completes s) (.next s _) h

theorem Completes.of_runs {s u : State} {fits : Prop} {post : State → Prop} {r : Except Fault State}
    (h : Runs fits post u r) (hfits : fits) (hm : ∀ sp, u.mem sp = s.mem sp) : Completes s (finish r) := by
  cases h with
  | done _ => exact .next s _
  | unwritten hr => exact .inr ⟨_, _, rfl, hm _ ▸ hr⟩
  | outside hn => exact absurd hfits hn

/-- A region that passes the check of a Voice fits the sample memories. -/
theorem State.Inv.regionFits {s : State} (h : s.Inv) (v : Nat) {start num : Word}
    (hr : ¬ regionTooLong start num (s.voice v).flt.maxblock = true) :
    RegionFits s.cfg (s.voice v).flt.nchan.toNat start.toNat num.toNat := by
  obtain ⟨hmax, hchan⟩ := Voice.wf_sizes (h.voice_wf v)
  simp only [regionTooLong, decide_eq_true_eq] at hr
  exact ⟨hchan, by omega⟩

theorem execFltProcess_completes (v : BitVec 8) {s : State} (h : s.Inv) : Completes s (execFltProcess v s) := by
  refine .of_onVoice ?_
  split
  · exact .next s _
  · split
    · exact .next s _
    · next hr => exact .of_runs (fltProcess_runs _ _ _ _ s) (h.regionFits _ hr) fun _ => rfl

theorem execVRender_completes (v : BitVec 8) {s : State} (h : s.Inv) : Completes s (execVRender v s) := by
  refine .of_onVoice ?_
  split
  · exact .next s _
  · split
    · exact .next s _
    · next hr => exact .of_runs (renderVoice_runs _ _ _ _ s) (h.regionFits _ hr) fun _ => rfl

/-- When `P.RENDER` begins to render, the block fits the sample memories as it did at the check. -/
theorem State.Inv.atRender_blockFits {s : State} (h : s.Inv) {num : Nat} (hn : num ≤ s.pool.maxblock.toNat) :
    (s.atRender s.fp).BlockFits num := by
  have hf := atRender_commandFrame s.fp s rfl
  obtain ⟨-, -, -, hp, -⟩ := (State.inv_iff s).1 h
  obtain ⟨hmax, hchan⟩ := Pool.wf_sizes hp
  refine ⟨fun v => ?_, hf.nchan hchan, ?_⟩
  · rw [hf.cfg]
    exact (hf.voices.voice Voice.Kept.refl hf.cfg v).nchan (Voice.wf_sizes (h.voice_wf v)).2
  · rw [hf.cfg]
    omega

theorem execPRender_completes {s : State} (h : s.Inv) : Completes s (execPRender s) := by
  unfold execPRender
  split
  · exact .next s _
  · split
    · exact .next s _
    · next hn =>
      exact .of_runs (renderBlock_runs s.fp s.a0.toNat s) (h.atRender_blockFits (by omega))
        ((atRender_commandFrame s.fp s rfl).memory rfl)

/-- A command whose body answers a next state for every Voice does so. -/
theorem onVoice_completes (v : BitVec 8) (s : State) (body : Nat → Out) (h : ∃ t, body v.toNat = .next t) :
    ∃ t, onVoice v s body = .next t :=
  onVoice_satisfies (fun o => ∃ t, o = .next t) ⟨_, rfl⟩ h

theorem updVoice_completes (v : BitVec 8) (s : State) (f : Voice → Voice) : ∃ t, updVoice v s f = .next t :=
  onVoice_completes v s _ ⟨_, rfl⟩

theorem queryVoice_completes (v : BitVec 8) (s : State) (f : Voice → Word) : ∃ t, queryVoice v s f = .next t :=
  onVoice_completes v s _ ⟨_, rfl⟩

/-- A guard of a command completes if both its branches do. -/
theorem ite_completes (b : Prop) [Decidable b] {x y : Out} (hx : ∃ t, x = .next t) (hy : ∃ t, y = .next t) :
    ∃ t, (if b then x else y) = .next t := by
  split
  · exact hx
  · exact hy

/-- A command that does not use the sample memories completes in every state (rule R121). -/
theorem exec_completes (i : Instr) (s : State) (h : i.usesMemory = false) : ∃ t, exec i s = .next t := by
  cases i with
  | sysReset => exact ⟨_, rfl⟩
  | oscSetwave v wsel =>
    simp only [exec, execOscSetwave]
    refine onVoice_completes v s _ ?_
    cases waveOfSel wsel <;> exact ⟨_, rfl⟩
  | oscSetfreq v => simp only [exec, execOscSetfreq, updVoice_completes]
  | oscSetsr v => simp only [exec, execOscSetsr, updVoice_completes]
  | oscReset v => simp only [exec, execOscReset, updVoice_completes]
  | oscNext v =>
    simp only [exec, execOscNext]
    exact onVoice_completes v s _ ⟨_, rfl⟩
  | envNoteon v => simp only [exec, execEnvNoteon, updVoice_completes]
  | envNoteoff v => simp only [exec, execEnvNoteoff, updVoice_completes]
  | envNext v =>
    simp only [exec, execEnvNext]
    exact onVoice_completes v s _ ⟨_, rfl⟩
  | envSetparams v => simp only [exec, execEnvSetparams, updVoice_completes]
  | envSetsr v => simp only [exec, execEnvSetsr, updVoice_completes]
  | envIsactive v => simp only [exec, execEnvIsactive, queryVoice_completes]
  | envGetlevel v => simp only [exec, execEnvGetlevel, queryVoice_completes]
  | envGetstage v => simp only [exec, execEnvGetstage, queryVoice_completes]
  | fltPrepare v =>
    simp only [exec, execFltPrepare]
    exact onVoice_completes v s _ (ite_completes _ ⟨_, rfl⟩ ⟨_, rfl⟩)
  | fltReset v => simp only [exec, execFltReset, updVoice_completes]
  | fltSetcutoff v => simp only [exec, execFltSetcutoff, updVoice_completes]
  | fltSetres v => simp only [exec, execFltSetres, updVoice_completes]
  | fltProcess v => cases h
  | vPrepare v =>
    simp only [exec, execVPrepare]
    exact onVoice_completes v s _ (ite_completes _ ⟨_, rfl⟩ ⟨_, rfl⟩)
  | vStart v note =>
    simp only [exec, execVStart]
    exact onVoice_completes v s _ ⟨_, rfl⟩
  | vStop v tail =>
    simp only [exec, execVStop]
    exact onVoice_completes v s _ ⟨_, rfl⟩
  | vRender v => cases h
  | vUpdosc v widx => simp only [exec, execVUpdosc, updVoice_completes]
  | vUpdflt v => simp only [exec, execVUpdflt, updVoice_completes]
  | vUpdadsr v => simp only [exec, execVUpdadsr, updVoice_completes]
  | vQuery v => simp only [exec, execVQuery, queryVoice_completes]
  | pPrepare => exact ite_completes _ ⟨_, rfl⟩ ⟨_, rfl⟩
  | pNoteon note => exact ⟨_, rfl⟩
  | pNoteoff note tail => exact ⟨_, rfl⟩
  | pRender => cases h
  | pEvent kind note tail => exact ite_completes _ ⟨_, rfl⟩ ⟨_, rfl⟩

/-- The three rendering commands complete, or stop at an unwritten word. -/
theorem exec_completes_usesMemory (i : Instr) {s : State} (hs : s.Inv) (h : i.usesMemory = true) :
    Completes s (exec i s) := by
  unfold Instr.usesMemory at h
  split at h
  · exact execFltProcess_completes _ hs
  · exact execVRender_completes _ hs
  · exact execPRender_completes hs
  · cases h

/-- Settles O54: the rendering commands never leave the memories (`Runs`), the others have no way to stop. -/
theorem commandsStopOnlyOnUnwritten : Obligations.CommandsStopOnlyOnUnwritten := by
  intro i s hs
  cases hm : i.usesMemory with
  | false => exact .inl (exec_completes i s hm)
  | true => exact (exec_completes_usesMemory i hs hm).imp_right fun h => ⟨rfl, h⟩

end Sys2Proof.Machine

/-! ## The pool's invariant -/

namespace Sys2Proof.Machine

/-- The Voice sounds the note it sounded, or none. -/
structure Voice.KeepsNote (x y : Voice) : Prop where
  active : y.active = true → x.active = true
  note   : y.active = true → y.note = x.note
  ts     : y.active = true → y.ts = x.ts

namespace Voice.KeepsNote

theorem refl (x : Voice) : Voice.KeepsNote x x := ⟨id, fun _ => rfl, fun _ => rfl⟩

theorem trans (x y z : Voice) (h : Voice.KeepsNote x y) (k : Voice.KeepsNote y z) : Voice.KeepsNote x z where
  active := h.active ∘ k.active
  note hz := (k.note hz).trans (h.note (k.active hz))
  ts hz := (k.ts hz).trans (h.ts (k.active hz))

theorem of_rendered {x y : Voice} (h : Voice.Rendered x y) : Voice.KeepsNote x y := by
  rcases h.note with ⟨ha, hn⟩ | ⟨ha, -⟩
  · exact ⟨ha ▸ id, fun _ => hn, fun _ => h.ts⟩
  · exact ⟨by simp [ha], by simp [ha], by simp [ha]⟩

theorem cleared (x : Voice) : Voice.KeepsNote x x.cleared := .of_rendered (Voice.rendered_cleared x)

theorem stopped (tail : Bool) (x : Voice) : Voice.KeepsNote x (x.stopped tail) := by
  unfold Voice.stopped
  simp only
  split
  · exact ⟨nofun, nofun, nofun⟩
  · exact ⟨id, fun _ => rfl, fun _ => rfl⟩

end Voice.KeepsNote

/-- Voices that sound the notes they sounded, or none, keep the pool's invariant. -/
theorem State.PoolInv.of_keepsNote {s t : State} (h : s.PoolInv) (hv : EachVoice Voice.KeepsNote s t)
    (hts : t.pool.tsctr = s.pool.tsctr) : t.PoolInv := by
  obtain ⟨hdistinct, hbelow⟩ := h
  constructor
  · intro i j x y hx hy hij hxa hya
    obtain ⟨x', hx', hkx⟩ := hv.rel i x hx
    obtain ⟨y', hy', hky⟩ := hv.rel j y hy
    rw [hkx.note hxa, hky.note hya, hkx.ts hxa, hky.ts hya]
    exact hdistinct i j x' y' hx' hy' hij (hkx.active hxa) (hky.active hya)
  · intro x hx hxa
    obtain ⟨x', hx', hkx⟩ := hv.of_mem hx
    rw [hkx.ts hxa, hts]
    exact hbelow x' hx' (hkx.active hxa)

theorem tsctr_succ {w : BitVec 64} (h : w.toNat + 1 < 2 ^ 64) : (w + 1#64).toNat = w.toNat + 1 := by
  rw [BitVec.toNat_add]
  exact Nat.mod_eq_of_lt h

theorem startNote_voice_started {m : Fp} {v : Nat} {n : BitVec 7} {s : State} {x : Voice}
    (hx : (startNote m v n s).voices[v]? = some x) : x.note = some n ∧ x.ts = s.pool.tsctr := by
  simp only [startNote_voices, State.setVoice_voices, List.getElem?_set_self'] at hx
  obtain ⟨_, _, rfl⟩ := Option.map_eq_some_iff.1 hx
  exact ⟨rfl, rfl⟩

theorem startNote_voice_other (m : Fp) {v u : Nat} (n : BitVec 7) (s : State) (hu : u ≠ v) :
    (startNote m v n s).voices[u]? = s.voices[u]? := by
  simp [List.getElem?_set_ne (Ne.symm hu)]

/-- A note begins on a Voice: the invariant holds if no other Voice sounds that note (rule R220). -/
theorem startNote_poolInv (m : Fp) (v : Nat) (n : BitVec 7) {s : State} (h : s.PoolInv)
    (hts : s.pool.tsctr.toNat + 1 < 2 ^ 64)
    (hn : ∀ u x, u ≠ v → s.voices[u]? = some x → x.active = true → x.note ≠ some n) :
    (startNote m v n s).PoolInv := by
  obtain ⟨hdistinct, hbelow⟩ := h
  have hsucc : (startNote m v n s).pool.tsctr.toNat = s.pool.tsctr.toNat + 1 := by simpa using tsctr_succ hts
  have hold : ∀ {u x}, u ≠ v → (startNote m v n s).voices[u]? = some x → s.voices[u]? = some x :=
    fun hu hx => startNote_voice_other m n s hu ▸ hx
  /- The Voice started differs from another: in note by `hn`, in timestamp because an older one is below the counter. -/
  have hstarted : ∀ {u x y}, u ≠ v → s.voices[u]? = some x → x.active = true →
      (startNote m v n s).voices[v]? = some y → x.note ≠ y.note ∧ x.ts ≠ y.ts := by
    intro u x y hu hx hxa hy
    obtain ⟨hynote, hyts⟩ := startNote_voice_started hy
    rw [hynote, hyts]
    exact ⟨hn u x hu hx hxa, fun he => absurd (hbelow x (List.mem_of_getElem? hx) hxa) (by rw [he]; omega)⟩
  constructor
  · intro i j x y hx hy hij hxa hya
    by_cases hi : i = v
    · obtain ⟨h1, h2⟩ := hstarted (u := j) (by omega) (hold (by omega) hy) hya (hi ▸ hx)
      exact ⟨h1.symm, h2.symm⟩
    · by_cases hj : j = v
      · exact hstarted hi (hold hi hx) hxa (hj ▸ hy)
      · exact hdistinct i j x y (hold hi hx) (hold hj hy) hij hxa hya
  · intro x hx hxa
    rw [hsucc]
    obtain ⟨u, hu⟩ := List.mem_iff_getElem?.1 hx
    by_cases huv : u = v
    · rw [(startNote_voice_started (huv ▸ hu)).2]
      omega
    · have := hbelow x (List.mem_of_getElem? (hold huv hu)) hxa
      omega

theorem findAssigned_eq_some {s : State} {n : BitVec 7} {v : Nat} (h : findAssigned s n = some v) :
    ∃ x, s.voices[v]? = some x ∧ x.active = true ∧ x.note = some n := by
  obtain ⟨hv, hx, -⟩ := List.findIdx?_eq_some_iff_getElem.1 h
  exact ⟨s.voices[v], List.getElem?_eq_getElem hv, by simpa using hx⟩

theorem findAssigned_eq_none {s : State} {n : BitVec 7} (h : findAssigned s n = none) {x : Voice} (hx : x ∈ s.voices)
    (hxa : x.active = true) : x.note ≠ some n := by
  simpa [hxa] using List.findIdx?_eq_none_iff.1 h x hx

theorem clearVoice_keepsNote (v : Nat) (s : State) : EachVoice Voice.KeepsNote s (clearVoice v s) :=
  .setVoice Voice.KeepsNote.refl v _ (.cleared _)

@[simp] theorem clearVoice_pool (v : Nat) (s : State) : (clearVoice v s).pool = s.pool := rfl

theorem allocNoteOn_poolInv (m : Fp) (n : BitVec 7) {s : State} (h : s.PoolInv)
    (hts : s.pool.tsctr.toNat + 1 < 2 ^ 64) : (allocNoteOn m n s).PoolInv := by
  unfold allocNoteOn
  split
  · next v hv =>
    obtain ⟨y, hy, hya, hyn⟩ := findAssigned_eq_some hv
    have ⟨hdistinct, _⟩ := h
    refine startNote_poolInv m v n h hts fun u x hu hx hxa => ?_
    rw [← hyn]
    exact (hdistinct u v x y hx hy hu hxa hya).1
  · next hnone =>
    split
    · exact startNote_poolInv m _ n h hts fun u x _ hx => findAssigned_eq_none hnone (List.mem_of_getElem? hx)
    · refine startNote_poolInv m _ n (h.of_keepsNote (clearVoice_keepsNote _ s) rfl) hts fun u x _ hx hxa => ?_
      obtain ⟨y, hy, hk⟩ := (clearVoice_keepsNote (stealChoice s) s).rel u x hx
      rw [hk.note hxa]
      exact findAssigned_eq_none hnone (List.mem_of_getElem? hy) (hk.active hxa)

/-- A note allocated takes one timestamp (rule R262). -/
theorem allocNoteOn_tsctr (m : Fp) (n : BitVec 7) (s : State) :
    (allocNoteOn m n s).pool.tsctr = s.pool.tsctr + 1#64 := by
  unfold allocNoteOn
  split
  · rfl
  · split <;> rfl

theorem routeNoteOff_poolInv (n : BitVec 7) (tail : Bool) {s : State} (h : s.PoolInv) :
    (routeNoteOff n tail s).PoolInv := by
  unfold routeNoteOff
  split
  · exact h.of_keepsNote (.setVoice Voice.KeepsNote.refl _ _ (.stopped tail _)) rfl
  · exact h

theorem routeNoteOff_tsctr (n : BitVec 7) (tail : Bool) (s : State) :
    (routeNoteOff n tail s).pool.tsctr = s.pool.tsctr := by
  unfold routeNoteOff
  split <;> rfl

theorem dispatchEvent_poolInv (m : Fp) (e : EventRec) {s : State} (h : s.PoolInv)
    (hts : s.pool.tsctr.toNat + 1 < 2 ^ 64) :
    (dispatchEvent m e s).PoolInv ∧ (dispatchEvent m e s).pool.tsctr.toNat ≤ s.pool.tsctr.toNat + 1 := by
  unfold dispatchEvent
  split
  · exact ⟨allocNoteOn_poolInv m _ h hts, by rw [allocNoteOn_tsctr, tsctr_succ hts]⟩
  · exact ⟨routeNoteOff_poolInv _ _ h, by rw [routeNoteOff_tsctr]; omega⟩

/-- The queue keeps the invariant as long as the counter has a timestamp left for every record. -/
theorem dispatchList_poolInv (m : Fp) (i : Nat) (l : List EventRec) {s : State} (h : s.PoolInv)
    (hts : s.pool.tsctr.toNat + l.length < 2 ^ 64) : (dispatchList m i l s).PoolInv := by
  induction l generalizing i s with
  | nil => exact h
  | cons e rest ih =>
    rw [List.length_cons] at hts
    obtain ⟨he, hle⟩ := dispatchEvent_poolInv (m.sub i) e h (by omega)
    exact ih (i + 1) he (by omega)

/-! ### `P.RENDER` -/

/-- The invariant speaks of the Voices and the counter only. -/
theorem State.PoolInv.of_eq {s t : State} (h : s.PoolInv) (hv : t.voices = s.voices)
    (hts : t.pool.tsctr = s.pool.tsctr) : t.PoolInv :=
  h.of_keepsNote (.of_voices_eq Voice.KeepsNote.refl hv) hts

/-- What dispatching the events needs, once the parameters are latched and applied. -/
structure SameNotes (s t : State) : Prop where
  voices : EachVoice Voice.KeepsNote s t
  pool   : t.pool = s.pool
  events : t.events = s.events

theorem LatchFrame.sameNotes {s t : State} (h : LatchFrame s t) : SameNotes s t := by
  rw [h.others]
  exact ⟨.of_voices_eq Voice.KeepsNote.refl rfl, rfl, rfl⟩

theorem SameNotes.trans {s t u : State} (h : SameNotes s t) (k : SameNotes t u) : SameNotes s u :=
  ⟨h.voices.trans Voice.KeepsNote.trans k.voices, k.pool.trans h.pool, k.events.trans h.events⟩

theorem SameNotes.setVoice (s : State) (v : Nat) (x : Voice) (h : Voice.KeepsNote (s.voice v) x) :
    SameNotes s (s.setVoice v x) :=
  ⟨.setVoice Voice.KeepsNote.refl v x h, rfl, rfl⟩

theorem applySnapshot_sameNotes (s : State) : SameNotes s (applySnapshot s) :=
  eachUp_keeps (SameNotes s) _ _ _ s
    (fun v t _ _ ht => ht.trans (.setVoice t v _ ⟨id, fun _ => rfl, fun _ => rfl⟩))
    ⟨.of_voices_eq Voice.KeepsNote.refl rfl, rfl, rfl⟩

theorem atRender_poolInv (m : Fp) {s : State} (h : s.PoolInv)
    (hts : s.pool.tsctr.toNat + s.events.length < 2 ^ 64) : (s.atRender m).PoolInv := by
  obtain ⟨hv, hp, he⟩ := (latchSnapshot_latchFrame s).sameNotes.trans (applySnapshot_sameNotes _)
  unfold State.atRender dispatchEvents
  generalize applySnapshot (latchSnapshot s) = u at hv hp he
  exact dispatchList_poolInv _ 0 u.events ((h.of_keepsNote hv (by rw [hp])).of_eq rfl rfl) (by rw [hp, he]; exact hts)

theorem execPRender_poolInv {s t : State} (h : s.PoolInv) (hts : s.pool.tsctr.toNat + s.events.length < 2 ^ 64)
    (he : execPRender s = .next t) : t.PoolInv := by
  rcases execPRender_next he with ⟨e, rfl⟩ | hb
  · exact h.of_eq rfl rfl
  · have hf := (renderBlock_runs s.fp s.a0.toNat s).ok hb
    exact (atRender_poolInv s.fp h hts).of_keepsNote (hf.voices.imp fun _ _ => .of_rendered) (by rw [hf.pool])

/-- Settles O57, command by command: allocation starts a note that no other Voice sounds, with the counter's timestamp;
stopping and rendering only end notes; the queue is an induction over its records. -/
theorem poolCommandsKeepPoolInvariant : Obligations.PoolCommandsKeepPoolInvariant := by
  intro s t n tail kind i hi _ h hts he
  simp only [List.mem_cons, List.not_mem_nil, or_false] at hi
  rcases hi with rfl | rfl | rfl | rfl
  · cases he
    exact allocNoteOn_poolInv s.fp n h (by omega)
  · cases he
    exact routeNoteOff_poolInv n tail h
  · rcases execPEvent_next he with rfl | rfl
    · exact h.of_eq rfl rfl
    · exact h.of_eq rfl rfl
  · exact execPRender_poolInv h (by omega) he

/-! ## Reset -/

theorem resetOf_inv {c : Config} (h : c.wf = true) : (State.resetOf c).Inv := by
  refine (State.inv_iff _).2 ⟨h, by simp [State.resetOf], fun x hx => ?_, ?_, ?_, ?_, ⟨rfl, rfl⟩, rfl, rfl⟩
  · rw [List.eq_of_mem_replicate hx]
    exact Voice.reset_wf c
  · simp [State.resetOf, Pool.wf, Pool.reset]
  · simp [State.resetOf, Pool.reset]
  · simp [State.resetOf]

/-- No Voice is active after reset. -/
theorem resetOf_poolInv (c : Config) : (State.resetOf c).PoolInv := by
  have hfree : ∀ x ∈ (State.resetOf c).voices, x.active = false := fun x hx => by
    rw [List.eq_of_mem_replicate hx]
    rfl
  constructor
  · intro i j x y hx _ _ hxa
    rw [hfree x (List.mem_of_getElem? hx)] at hxa
    cases hxa
  · intro x hx hxa
    rw [hfree x hx] at hxa
    cases hxa

/-- Settles O13, one invariant at a time. -/
theorem resetSatisfiesInvariant : Obligations.ResetSatisfiesInvariant :=
  fun c h => ⟨resetOf_inv h, resetOf_incInv c, resetOf_poolInv c⟩

theorem resetOf_statusWord (c : Config) : (State.resetOf c).statusWord = 0#32 := by
  simp [State.statusWord, State.resetOf, Pool.reset, ErrorBits.clear, bitWord]

/-- Settles O12: the reset state is the table, and both causes of reset make it. -/
theorem resetLeavesTheTable : Obligations.ResetLeavesTheTable := by
  refine ⟨fun c => ?_, fun s => rfl, fun s rest h => ?_⟩
  · refine ⟨rfl, resetOf_statusWord c, rfl, rfl, rfl, rfl, rfl, rfl, rfl, List.length_replicate, fun x hx => ?_,
      fun a => ⟨rfl, rfl⟩⟩
    rw [List.eq_of_mem_replicate hx]
    exact ⟨rfl, rfl, rfl, rfl, rfl, rfl, rfl, rfl, rfl, rfl, rfl, rfl, rfl⟩
  · simp only [step, h]
    rfl

end Sys2Proof.Machine

/-! ## The host's registers -/

namespace Sys2Proof.Machine

theorem step_host {s : State} {x : HostTxn} {rest : List Move} (h : s.moves = .host x :: rest) :
    step s = hostTxn x { s with moves := rest } := by
  simp only [step, h]

@[simp] theorem paramIndex_eq_none {n : Nat} (h : n < 16 ∨ 24 ≤ n) : paramIndex n = none := by
  rw [paramIndex, dif_neg]
  omega

/-- A write of a register that is no parameter, while no command runs (rules R61, R313). -/
theorem step_regWrite_idle {s : State} {n : Nat} {w : Word} {rest : List Move} (hb : s.busy = false) (hn : n < 32)
    (hp : n < 16 ∨ 24 ≤ n) (h : s.moves = .host (.regWrite n w) :: rest) :
    step s = .next (regWriteIdle n w { s with moves := rest }) := by
  simp [step_host h, hostTxn, hostRegWrite, hn, paramIndex_eq_none hp, hb]

theorem step_regRead {s : State} {n : Nat} {rest : List Move} (hn : n < 32)
    (h : s.moves = .host (.regRead n) :: rest) :
    step s = .next { s with moves := rest, rdata := regValue n { s with moves := rest } } := by
  simp [step_host h, hostTxn, hostRegRead, hn]

theorem regValue_param (k : Fin 8) (s : State) : regValue (16 + k.val) s = s.params.get k := by
  fin_cases k <;> rfl

/-- The reserved registers read 0 (rule R45). -/
theorem regValue_reserved {n : Nat} (h : 24 ≤ n) (s : State) : regValue n s = 0#32 := by
  unfold regValue
  split
  case h_17 => simp [paramIndex_eq_none (.inr h)]
  all_goals omega

/-- The read-only and the reserved registers ignore a write (rules R24, R45). -/
theorem regWriteIdle_ignored {n : Nat} (h : (2 ≤ n ∧ n ≤ 3) ∨ 8 ≤ n) (w : Word) (s : State) :
    regWriteIdle n w s = s := by
  unfold regWriteIdle
  split
  case h_7 => rfl
  all_goals omega

/-- Settles O7: `CMD` is written like any register while idle, and an idle engine with no move is at rest. -/
theorem commandIssueAndIdle : Obligations.CommandIssueAndIdle := by
  refine ⟨fun s w rest hb h => step_regWrite_idle hb (by decide) (by decide) h, fun s hb hm => ?_⟩
  simp [step, hm, hb]

/-- Settles O9: the word returned is `regValue` at the register's number. -/
theorem registerReadsAreIdempotent : Obligations.RegisterReadsAreIdempotent := by
  intro s n rest hn h
  refine ⟨_, step_regRead hn h, ?_, ?_, ?_, ?_, ?_, ?_, ?_, ?_, ?_, ?_, ?_, ?_, ?_, ?_, ?_, ?_, ?_, ?_⟩
  case refine_17 => rintro k rfl; exact regValue_param k _
  case refine_18 => exact fun h => regValue_reserved h _
  all_goals rintro rfl; rfl

/-- Settles O10, register by register. -/
theorem registerWritesWhileIdle : Obligations.RegisterWritesWhileIdle := by
  refine ⟨fun s w rest hb => ?_, fun s n w rest hb hn h => ?_, fun s n rest hn hn' h => ?_, fun s n w rest hn h => ?_⟩
  · refine ⟨?_, ?_, ?_, ?_⟩ <;> exact step_regWrite_idle hb (by decide) (by decide)
  · rw [step_regWrite_idle hb (by omega) (by omega) h, regWriteIdle_ignored (by omega)]
  · rw [step_regRead (by omega) h, regValue_reserved hn]
  · have hn : ¬ n < 32 := by omega
    rcases h with h | h
    · simp [step_host h, hostTxn, hostRegRead, hn]
    · simp [step_host h, hostTxn, hostRegWrite, hn]

/-! ### `STATUS` -/

theorem bitWord_getLsbD {n : Nat} (hn : n < 32) (b : Bool) (j : Nat) :
    (bitWord n b).getLsbD j = (b && decide (j = n)) := by
  unfold bitWord
  cases b with
  | true => simp [BitVec.getLsbD_twoPow, hn, eq_comm]
  | false => simp

/-- `STATUS`, bit by bit (rule R26). -/
theorem statusWord_getLsbD (s : State) (j : Nat) :
    s.statusWord.getLsbD j = (s.busy && decide (j = 0) || s.pool.ready && decide (j = 1)
      || s.err.illegal && decide (j = 8) || s.err.operand && decide (j = 9) || s.err.notPrep && decide (j = 10)
      || s.err.range && decide (j = 11) || s.err.evqFull && decide (j = 12)) := by
  simp [State.statusWord, bitWord_getLsbD]

/-- The error bits of `STATUS` after a write are those not written as 1; the other bits stay (rule R26). -/
theorem statusWord_cleared_getLsbD (s : State) (w : Word) (j : Nat) :
    ({ s with err := s.err.cleared w } : State).statusWord.getLsbD j
      = (s.statusWord.getLsbD j && !(decide (8 ≤ j) && decide (j ≤ 12) && w.getLsbD j)) := by
  rw [statusWord_getLsbD, statusWord_getLsbD]
  by_cases hj : 8 ≤ j ∧ j ≤ 12
  · obtain ⟨h8, h12⟩ := hj
    interval_cases j <;> simp [ErrorBits.cleared]
  · have h8 : j ≠ 8 ∧ j ≠ 9 ∧ j ≠ 10 ∧ j ≠ 11 ∧ j ≠ 12 := by omega
    have hw : (decide (8 ≤ j) && decide (j ≤ 12) && w.getLsbD j) = false := by
      rw [← Bool.decide_and, decide_eq_false hj, Bool.false_and]
    simp [h8, hw]

/-- Settles O11, from the bits of `STATUS` and of what a write leaves of them. -/
theorem statusBitsReadAndClear : Obligations.StatusBitsReadAndClear := by
  refine ⟨fun s => ?_, fun s w rest hb h => ?_⟩
  · simp only [statusWord_getLsbD]
    refine ⟨by simp, by simp, by simp, by simp, by simp, by simp, by simp, fun j hj => ?_⟩
    have : j ≠ 0 ∧ j ≠ 1 ∧ j ≠ 8 ∧ j ≠ 9 ∧ j ≠ 10 ∧ j ≠ 11 ∧ j ≠ 12 := by omega
    simp [this]
  · exact ⟨_, step_regWrite_idle hb (by decide) (by decide) h, rfl, statusWord_cleared_getLsbD _ w⟩

/-! ## The sample memories -/

/-- Two elements of a memory share an address only if they are the same (rule R62). -/
theorem sampleAddr_inj {cfg : Config} {c i d j : Nat} (hi : sampleExists cfg c i = true)
    (hj : sampleExists cfg d j = true) (h : sampleAddr cfg d j = sampleAddr cfg c i) : d = c ∧ j = i := by
  simp only [sampleExists, Bool.and_eq_true, decide_eq_true_eq] at hi hj
  simp only [sampleAddr] at h
  have hd := congrArg (· / cfg.capBlock) h
  have hm := congrArg (· % cfg.capBlock) h
  simp only [Nat.mul_add_mod_of_lt hi.2, Nat.mul_add_mod_of_lt hj.2] at hm
  have hpos : 0 < cfg.capBlock := by omega
  simp only [Nat.mul_comm _ cfg.capBlock, Nat.mul_add_div hpos, Nat.div_eq_of_lt hi.2, Nat.div_eq_of_lt hj.2] at hd
  exact ⟨by simpa using hd, hm⟩

theorem memWrite_then_memRead {sp : Space} {c i : Nat} {w : Word} {s t : State} (h : memWrite sp c i w s = .ok t) :
    memRead sp c i t = .ok w := by
  obtain ⟨he, rfl⟩ := (memWrite_ok_iff sp c i w s t).1 h
  rw [memRead_ok_iff]
  simpa using he

/-- A read sees the configuration and the word at the element's address only. -/
theorem memRead_congr {sp : Space} {c i : Nat} {s t : State} (hc : t.cfg = s.cfg)
    (hr : (t.mem sp).read (sampleAddr s.cfg c i) = (s.mem sp).read (sampleAddr s.cfg c i)) :
    memRead sp c i t = memRead sp c i s := by
  simp only [memRead, hc, hr]

theorem memWrite_memRead_other {sp sq : Space} {c i d j : Nat} {w : Word} {s t : State}
    (h : memWrite sp c i w s = .ok t) (hd : sampleExists s.cfg d j = true) (hne : sq ≠ sp ∨ d ≠ c ∨ j ≠ i) :
    memRead sq d j t = memRead sq d j s := by
  obtain ⟨he, rfl⟩ := (memWrite_ok_iff sp c i w s t).1 h
  refine memRead_congr (by simp) ?_
  by_cases hsq : sq = sp
  · subst hsq
    rw [State.mem_setMem]
    refine Memory.read_write_other _ _ _ _ fun haddr => ?_
    obtain ⟨h1, h2⟩ := sampleAddr_inj he hd haddr
    simp [h1, h2] at hne
  · rw [State.mem_setMem_other s sp sq _ hsq]

theorem hostMemRead_ok {sp : Space} {c i : Nat} {w : Word} {s : State} (hb : s.busy = false)
    (he : sampleExists s.cfg c i = true) (hr : memRead sp c i s = .ok w) :
    hostMemRead sp c i s = .next { s with rdata := w } := by
  simp [hostMemRead, hb, he, hr]

theorem hostMemRead_fault {sp : Space} {c i : Nat} {e : Fault} {s : State} (hb : s.busy = false)
    (he : sampleExists s.cfg c i = true) (hr : memRead sp c i s = .error e) : hostMemRead sp c i s = .fault e := by
  simp [hostMemRead, hb, he, hr]

theorem hostMemWrite_ok {sp : Space} {c i : Nat} {w : Word} {s t : State} (hb : s.busy = false)
    (he : sampleExists s.cfg c i = true) (hw : memWrite sp c i w s = .ok t) : hostMemWrite sp c i w s = .next t := by
  simp [hostMemWrite, hb, he, hw]

/-- Settles O14: the memory's read-after-write at the addresses of the elements, and the host's transactions. -/
theorem sampleReadAfterWrite : Obligations.SampleReadAfterWrite := by
  refine ⟨fun sp c i w s t h => ⟨memWrite_then_memRead h, fun sq d j hd hne => memWrite_memRead_other h hd hne⟩,
    fun sp c i w s rest hb he => ⟨fun h => ?_, fun h => ?_⟩⟩
  · have hw := (memWrite_ok_iff sp c i w { s with moves := rest } _).2 ⟨he, rfl⟩
    exact ⟨_, hw, (step_host h).trans (hostMemWrite_ok hb he hw)⟩
  · have hread : memRead sp c i { s with moves := rest } = memRead sp c i s :=
      memRead_congr rfl (by cases sp <;> rfl)
    constructor
    · exact fun hw => (step_host h).trans (hostMemRead_ok hb he (hread.trans hw))
    · exact fun hn => (step_host h).trans (hostMemRead_fault hb he (hread.trans (memRead_unwritten sp c i s he hn)))

end Sys2Proof.Machine

/-! ## Bounds on rounded results -/

namespace Sys2Proof.Machine

/-- Bits 30:0 of a datum: its exponent and fraction fields. -/
def fBits (x : F32) : Nat := fExp x * 2 ^ 23 + fFrac x

theorem fFrac_lt (x : F32) : fFrac x < 2 ^ 23 := Nat.mod_lt _ (by decide)

theorem fBits_fPack (neg : Bool) (n : Nat) (h : n < 2 ^ 31) : fBits (fPack neg n) = n := by
  rw [fBits, fPack_exp neg n h, fPack_frac neg n h]
  omega

/-- `sig * 2 ^ q` in the normal form of binary32: 24 significand bits, the highest of them set unless `q` is least. -/
structure NormalForm (sig q : Nat) : Prop where
  lt : sig < 2 ^ 24
  le : 0 < q → 2 ^ 23 ≤ sig

/-- A magnitude is a number in normal form, and its bits are that form's exponent and significand added. -/
theorem exists_normalForm (x : F32) :
    ∃ sig q, NormalForm sig q ∧ fMag x = sig * 2 ^ q ∧ fBits x = q * 2 ^ 23 + sig := by
  have hf := fFrac_lt x
  by_cases he : fExp x = 0
  · exact ⟨fFrac x, 0, ⟨by omega, by omega⟩, by simp [fMag, he], by simp [fBits, he]⟩
  · exact ⟨2 ^ 23 + fFrac x, fExp x - 1, ⟨by omega, by omega⟩, by simp [fMag, he], by rw [fBits]; omega⟩

/-- A number in normal form with the smaller exponent is below the next power of two. -/
theorem NormalForm.lt_of_exp_lt {sig q sig' q' : Nat} (h : NormalForm sig q) (h' : NormalForm sig' q') (hq : q < q') :
    sig * 2 ^ q < sig' * 2 ^ q' :=
  calc sig * 2 ^ q < 2 ^ 24 * 2 ^ q := Nat.mul_lt_mul_of_pos_right h.lt (by positivity)
    _ = 2 ^ 23 * 2 ^ (q + 1) := by ring
    _ ≤ sig' * 2 ^ q' := Nat.mul_le_mul (h'.le (by omega)) (Nat.pow_le_pow_right (by decide) hq)

/-- A datum with lower bits has no greater magnitude. -/
theorem fMag_le_of_fBits_le {x y : F32} (h : fBits x ≤ fBits y) : fMag x ≤ fMag y := by
  obtain ⟨sig, q, hn, hx, hbx⟩ := exists_normalForm x
  obtain ⟨sig', q', hn', hy, hby⟩ := exists_normalForm y
  have h1 := hn.lt
  have h2 := hn'.lt
  rw [hx, hy]
  rcases lt_trichotomy q q' with hq | rfl | hq
  · exact (hn.lt_of_exp_lt hn' hq).le
  · exact Nat.mul_le_mul_right _ (by omega)
  · have := hn.le (by omega)
    obtain ⟨rfl, rfl⟩ : q = q' + 1 ∧ sig' = sig + 2 ^ 23 := by omega
    omega

theorem fBits_lt_of_fMag_lt {x y : F32} (h : fMag x < fMag y) : fBits x < fBits y := by
  by_contra hn
  exact absurd (fMag_le_of_fBits_le (Nat.le_of_not_lt hn)) (by omega)

theorem roundEven_le (m r d : Nat) : roundEven m r d ≤ m + 1 := by
  unfold roundEven
  split <;> omega

/-- An exact quotient is not rounded. -/
theorem roundEven_exact (m : Nat) {d : Nat} (hd : 0 < d) : roundEven m 0 d = m := by
  rw [roundEven, if_neg]
  omega

/-- The bits `roundRat` computes, before overflow to infinity, of a quotient up to a number in normal form: they do not
pass the bits of that number. -/
theorem roundRat_bits_le {num den sig q : Nat} (hden : 0 < den) (hn : NormalForm sig q)
    (h : num ≤ sig * 2 ^ q * den) :
    let p := Nat.log2 (num / den) - 23
    p * 2 ^ 23 + roundEven (num / (den * 2 ^ p)) (num % (den * 2 ^ p)) (den * 2 ^ p) ≤ q * 2 ^ 23 + sig := by
  intro p
  have hd : 0 < den * 2 ^ p := by positivity
  have hm : num / (den * 2 ^ p) = num / den / 2 ^ p := (Nat.div_div_eq_div_mul _ _ _).symm
  /- the significand found is below `2 ^ 24`, and in normal form -/
  have hlt : num / den / 2 ^ p < 2 ^ 24 := by
    rw [Nat.div_lt_iff_lt_mul (by positivity), ← pow_add]
    exact Nat.lt_of_lt_of_le Nat.lt_log2_self (Nat.pow_le_pow_right (by decide) (by omega))
  have hle : 0 < p → 2 ^ 23 ≤ num / den / 2 ^ p := by
    intro hp
    rw [Nat.le_div_iff_mul_le (by positivity), ← pow_add, show 23 + p = Nat.log2 (num / den) by omega]
    exact Nat.log2_self_le (by rintro h0; simp [p, h0] at hp)
  have hround := roundEven_le (num / (den * 2 ^ p)) (num % (den * 2 ^ p)) (den * 2 ^ p)
  have hquot : num / den ≤ sig * 2 ^ q := Nat.div_le_of_le_mul (by rwa [Nat.mul_comm])
  rcases lt_trichotomy p q with hpq | rfl | hpq
  · have := hn.le (by omega)
    omega
  · have hsig : num / den / 2 ^ p ≤ sig := Nat.div_le_of_le_mul (by rwa [Nat.mul_comm])
    rcases Nat.lt_or_eq_of_le hsig with hs | hs
    · omega
    · /- the quotient reaches the bound, so it is exact -/
      have hnum : num % (den * 2 ^ p) = 0 := by
        have := Nat.div_add_mod num (den * 2 ^ p)
        rw [hm, hs] at this
        have : den * 2 ^ p * sig = sig * 2 ^ p * den := by ring
        omega
      rw [hnum, roundEven_exact _ hd]
      omega
  · exfalso
    have hq : sig * 2 ^ q < num / den / 2 ^ p * 2 ^ p := hn.lt_of_exp_lt ⟨hlt, hle⟩ hpq
    have := Nat.div_mul_le_self (num / den) (2 ^ p)
    omega

/-- Rounding does not pass a datum: a quotient up to the magnitude of `y` rounds to a magnitude up to it (rule R124). -/
theorem roundRat_mag_le (neg : Bool) {num den : Nat} (hden : 0 < den) (y : F32) (h : num ≤ fMag y * den) :
    fMag (roundRat neg num den) ≤ fMag y := by
  obtain ⟨sig, q, hn, hy, hb⟩ := exists_normalForm y
  apply fMag_le_of_fBits_le
  rw [hb, roundRat, fBits_fPack _ _ (Nat.lt_of_le_of_lt (Nat.min_le_right _ _) (by decide))]
  exact (Nat.min_le_left _ _).trans (roundRat_bits_le hden hn (hy ▸ h))

/-! ### Signs and flushing -/

theorem fVal_of_sign_false {x : F32} (h : fSign x = false) : fVal x = fMag x := by simp [fVal, h]

theorem fVal_of_sign_true {x : F32} (h : fSign x = true) : fVal x = -fMag x := by simp [fVal, h]

theorem fVal_le_fMag (x : F32) : fVal x ≤ fMag x := by
  unfold fVal
  split <;> omega

@[simp] theorem fVal_fPack_zero (neg : Bool) : fVal (fPack neg 0) = 0 := by cases neg <;> rfl

/-- Flushing keeps a datum, or makes a zero of a subnormal (rule R126). -/
theorem fFlush_eq_or (m : Fp) (x : F32) :
    fFlush m x = x ∨ (fFlush m x = fPack (fSign x) 0 ∧ fMag x < 2 ^ 23) := by
  unfold fFlush
  split
  · next h =>
    simp only [Bool.and_eq_true, fIsSubnormal, decide_eq_true_eq] at h
    exact .inr ⟨rfl, by simpa [fMag, h.2.1] using fFrac_lt x⟩
  · exact .inl rfl

theorem fFlush_val_eq_or (m : Fp) (x : F32) :
    fVal (fFlush m x) = fVal x ∨ (fVal (fFlush m x) = 0 ∧ fMag x < 2 ^ 23) := by
  rcases fFlush_eq_or m x with h | ⟨h, hs⟩
  · exact .inl (by rw [h])
  · exact .inr ⟨by rw [h, fVal_fPack_zero], hs⟩

/-- Flushing brings a datum no further from zero. -/
theorem fFlush_val_nonneg (m : Fp) {x : F32} (h : 0 ≤ fVal x) : 0 ≤ fVal (fFlush m x) := by
  rcases fFlush_val_eq_or m x with he | ⟨he, -⟩ <;> omega

theorem fFlush_val_le (m : Fp) {x : F32} {b : Int} (hb : 0 ≤ b) (h : fVal x ≤ b) : fVal (fFlush m x) ≤ b := by
  rcases fFlush_val_eq_or m x with he | ⟨he, -⟩ <;> omega

@[simp] theorem fFlush_sign (m : Fp) (x : F32) : fSign (fFlush m x) = fSign x := by
  rcases fFlush_eq_or m x with h | ⟨h, -⟩
  · rw [h]
  · rw [h, fPack_sign _ _ (by decide)]

theorem fFlush_number (m : Fp) {x : F32} (h : fIsNaN x = false) : fIsNaN (fFlush m x) = false := by
  rcases fFlush_eq_or m x with he | ⟨he, -⟩
  · rw [he, h]
  · rw [he, fPack_not_nan _ _ (by decide)]

theorem fFlush_finite (m : Fp) {x : F32} (h : fIsFinite x = true) : fIsFinite (fFlush m x) = true := by
  rcases fFlush_eq_or m x with he | ⟨he, -⟩
  · rw [he, h]
  · rw [he]
    cases fSign x <;> rfl

/-- A magnitude below that of infinity is finite. -/
theorem fIsFinite_of_fMag_lt {x : F32} (h : fMag x < 2 ^ 277) : fIsFinite x = true := by
  by_contra hn
  have he : fExp x = 255 := by simpa [fIsFinite] using hn
  rw [fMag, he, if_neg (by decide)] at h
  omega

theorem fIsFinite_number {x : F32} (h : fIsFinite x = true) : fIsNaN x = false := by
  simp_all [fIsFinite, fIsNaN]

theorem fIsFinite_not_inf {x : F32} (h : fIsFinite x = true) : fIsInf x = false := by
  simp_all [fIsFinite, fIsInf]

/-- A number that is not infinite is finite. -/
theorem fIsFinite_of_number {x : F32} (h : fIsNaN x = false) (hi : fIsInf x = false) : fIsFinite x = true := by
  simp only [fIsNaN, fIsInf, fIsFinite, Bool.and_eq_false_iff, decide_eq_false_iff_not, decide_eq_true_eq] at *
  tauto

theorem fNeg_exp (x : F32) : fExp (fNeg x) = fExp x := by
  rw [fExp, fNeg, BitVec.toNat_xor, Nat.xor_div_two_pow, show 256 = 2 ^ 8 from rfl, Nat.xor_mod_two_pow]
  exact Nat.xor_zero _

theorem fNeg_frac (x : F32) : fFrac (fNeg x) = fFrac x := by
  rw [fFrac, fNeg, BitVec.toNat_xor, Nat.xor_mod_two_pow]
  exact Nat.xor_zero _

@[simp] theorem fNeg_sign (x : F32) : fSign (fNeg x) = !fSign x := by
  rw [fSign, fNeg, BitVec.msb_xor, show (0x80000000#32).msb = true from rfl, Bool.xor_true, fSign]

@[simp] theorem fNeg_val (x : F32) : fVal (fNeg x) = -fVal x := by
  simp only [fVal, fMag, fNeg_exp, fNeg_frac, fNeg_sign]
  cases fSign x <;> simp

@[simp] theorem fNeg_isNaN (x : F32) : fIsNaN (fNeg x) = fIsNaN x := by
  simp only [fIsNaN, fNeg_exp, fNeg_frac]

@[simp] theorem fNeg_isFinite (x : F32) : fIsFinite (fNeg x) = fIsFinite x := by
  simp only [fIsFinite, fNeg_exp]

end Sys2Proof.Machine

/-! ## The sum of two data -/

namespace Sys2Proof.Machine

/-- The sum of finite data: exact zero, or the exact sum rounded once (rules R124, R127). -/
theorem faddCore_finite (m : Fp) {a b : F32} (ha : fIsFinite a = true) (hb : fIsFinite b = true) :
    faddCore m a b = if fVal a + fVal b = 0 then fPack (fSign a && fSign b) 0
      else fFlush m (roundRat (decide (fVal a + fVal b < 0)) (fVal a + fVal b).natAbs 1) := by
  simp [faddCore, fIsFinite_number ha, fIsFinite_number hb, fIsFinite_not_inf ha, fIsFinite_not_inf hb]

/-- An infinite summand is the sum (rule R125). -/
theorem faddCore_inf (m : Fp) {a b : F32} (ha : fIsFinite a = true) (hb : fIsInf b = true) (hbn : fIsNaN b = false) :
    faddCore m a b = b := by
  simp [faddCore, fIsFinite_number ha, fIsFinite_not_inf ha, hb, hbn]

theorem faddCore_number (m : Fp) {a b : F32} (ha : fIsFinite a = true) (hb : fIsNaN b = false) :
    fIsNaN (faddCore m a b) = false := by
  cases hi : fIsInf b with
  | true => rwa [faddCore_inf m ha hi hb]
  | false =>
    rw [faddCore_finite m ha (fIsFinite_of_number hb hi)]
    split
    · exact fPack_not_nan _ _ (by decide)
    · exact fFlush_number m (roundRat_not_nan _ _ _)

/-- A sum that is not negative rounds to a datum that is not (rule R124). -/
theorem faddCore_nonneg (m : Fp) {a b : F32} (ha : fIsFinite a = true) (hb : fIsFinite b = true)
    (h : 0 ≤ fVal a + fVal b) : 0 ≤ fVal (faddCore m a b) := by
  rw [faddCore_finite m ha hb]
  split
  · simp
  · refine fFlush_val_nonneg m ?_
    rw [fVal_of_sign_false (by rw [roundRat_sign]; simpa using h)]
    omega

/-- A sum up to the magnitude of `y` rounds to a datum up to it (rule R124). -/
theorem faddCore_le (m : Fp) {a b : F32} (ha : fIsFinite a = true) (hb : fIsFinite b = true) (y : F32)
    (h : fVal a + fVal b ≤ fMag y) : fVal (faddCore m a b) ≤ fMag y := by
  rw [faddCore_finite m ha hb]
  split
  · simp
  · refine fFlush_val_le m (by omega) ?_
    by_cases hneg : fVal a + fVal b < 0
    · rw [fVal_of_sign_true (by rw [roundRat_sign]; simpa using hneg)]
      omega
    · have := roundRat_mag_le (decide (fVal a + fVal b < 0)) (den := 1) (by decide) y
        (num := (fVal a + fVal b).natAbs) (by omega)
      exact (fVal_le_fMag _).trans (by exact_mod_cast this)

/-! ### The quiet comparisons, in values -/

/-- The number 1, in units of `2^-149`. -/
@[simp] theorem fVal_fOne : fVal fOne = 2 ^ 149 := by decide +kernel

@[simp] theorem fVal_fZero : fVal fZero = 0 := by decide +kernel

theorem fge_iff (x y : F32) : fge x y = true ↔ (fIsNaN x = false ∧ fIsNaN y = false) ∧ fVal y ≤ fVal x := by
  simp [fge, fOrdered]

theorem fle_iff (x y : F32) : fle x y = true ↔ (fIsNaN x = false ∧ fIsNaN y = false) ∧ fVal x ≤ fVal y := by
  simp [fle, fOrdered]

theorem flt_iff (x y : F32) : flt x y = true ↔ (fIsNaN x = false ∧ fIsNaN y = false) ∧ fVal x < fVal y := by
  simp [flt, fOrdered]

theorem fUnit_iff (x : F32) : fUnit x ↔ fIsNaN x = false ∧ 0 ≤ fVal x ∧ fVal x ≤ 2 ^ 149 := by
  have h0 : fIsNaN fZero = false := by decide
  have h1 : fIsNaN fOne = false := by decide
  simp only [fUnit, fle_iff, h0, h1, fVal_fZero, fVal_fOne]
  tauto

theorem fPhase_iff (x : F32) : fPhase x ↔ fIsNaN x = false ∧ 0 ≤ fVal x ∧ fVal x < 2 ^ 149 := by
  have h0 : fIsNaN fZero = false := by decide
  have h1 : fIsNaN fOne = false := by decide
  simp only [fPhase, fle_iff, flt_iff, h0, h1, fVal_fZero, fVal_fOne]
  tauto

/-! ## The phase -/

/-- A number in `[0, 2]` is finite. -/
theorem fIsFinite_of_val {x : F32} (h0 : 0 ≤ fVal x) (h : fVal x ≤ 2 ^ 150) : fIsFinite x = true := by
  refine fIsFinite_of_fMag_lt ?_
  by_cases hs : fSign x = true
  · rw [fVal_of_sign_true hs] at h0
    omega
  · rw [fVal_of_sign_false (by simpa using hs)] at h
    omega

/-- The largest datum below 1 is `1 - 2^-24`. -/
theorem fVal_le_of_lt_one {x : F32} (h : fVal x < 2 ^ 149) : fVal x ≤ 2 ^ 149 - 2 ^ 125 := by
  by_cases hs : fSign x = true
  · rw [fVal_of_sign_true hs]
    omega
  · rw [fVal_of_sign_false (by simpa using hs)] at h ⊢
    have hone : fMag fOne = 2 ^ 149 := by decide +kernel
    have hpred : fMag 0x3F7FFFFF#32 = 2 ^ 149 - 2 ^ 125 := by decide +kernel
    have hlt := fBits_lt_of_fMag_lt (x := x) (y := fOne) (by omega)
    have hbits : fBits fOne = fBits 0x3F7FFFFF#32 + 1 := by decide +kernel
    have := fMag_le_of_fBits_le (x := x) (y := 0x3F7FFFFF#32) (by omega)
    omega

/-- The sum of two numbers in `[0, 1)` is at most `2 - 2^-23`, before and after rounding. -/
theorem fadd_below_two (m : Fp) {x y : F32} (hx : fPhase x) (hy : fPhase y) :
    fIsNaN (fadd m x y) = false ∧ 0 ≤ fVal (fadd m x y) ∧ fVal (fadd m x y) ≤ 2 ^ 150 - 2 ^ 126 := by
  obtain ⟨-, hx0, hx1⟩ := (fPhase_iff x).1 hx
  obtain ⟨-, hy0, hy1⟩ := (fPhase_iff y).1 hy
  have ha0 := fFlush_val_nonneg m hx0
  have ha1 := fFlush_val_le m (by decide) (fVal_le_of_lt_one hx1)
  have hb0 := fFlush_val_nonneg m hy0
  have hb1 := fFlush_val_le m (by decide) (fVal_le_of_lt_one hy1)
  have ha := fIsFinite_of_val ha0 (by omega)
  have hb := fIsFinite_of_val hb0 (by omega)
  have hmax : fMag 0x3FFFFFFF#32 = 2 ^ 150 - 2 ^ 126 := by decide +kernel
  refine ⟨faddCore_number m ha (fIsFinite_number hb), faddCore_nonneg m ha hb (by omega), ?_⟩
  have := faddCore_le m ha hb 0x3FFFFFFF#32 (by omega)
  rw [fadd]
  omega

/-- Flushing leaves 1 and the numbers above it alone. -/
theorem fFlush_val_of_one_le (m : Fp) {x : F32} (h : 2 ^ 149 ≤ fVal x) : fVal (fFlush m x) = fVal x := by
  rcases fFlush_val_eq_or m x with he | ⟨-, hs⟩
  · exact he
  · have := fVal_le_fMag x
    omega

/-- One subtracted from a number in `[1, 2)` leaves a number in `[0, 1)`. -/
theorem fsub_one_phase (m : Fp) {p : F32} (h1 : 2 ^ 149 ≤ fVal p) (h2 : fVal p ≤ 2 ^ 150 - 2 ^ 126) :
    fPhase (fsub m p fOne) := by
  have ha := fFlush_val_of_one_le m h1
  have hb : fVal (fNeg (fFlush m fOne)) = -2 ^ 149 := by rw [fNeg_val, fFlush_val_of_one_le m (by simp), fVal_fOne]
  have hfa : fIsFinite (fFlush m p) = true := fIsFinite_of_val (by omega) (by omega)
  have hfb : fIsFinite (fNeg (fFlush m fOne)) = true := by
    rw [fNeg_isFinite]
    exact fFlush_finite m (by decide)
  have hmax : fMag 0x3F7FFFFE#32 = 2 ^ 149 - 2 ^ 126 := by decide +kernel
  have hle := faddCore_le m hfa hfb 0x3F7FFFFE#32 (by omega)
  rw [fPhase_iff, fsub]
  exact ⟨faddCore_number m hfa (fIsFinite_number hfb), faddCore_nonneg m hfa hfb (by omega), by omega⟩

/-- Settles O24: the advanced phase is below 2, and from 1 on one subtraction brings it below 1. -/
theorem phaseStaysInUnitInterval : Obligations.PhaseStaysInUnitInterval := by
  intro m phase inc hphase hinc0 hinc1
  have hinc : fPhase inc := by
    obtain ⟨⟨-, hn⟩, h0⟩ := (flt_iff _ _).1 hinc0
    exact ⟨(fle_iff _ _).2 ⟨⟨by decide, hn⟩, h0.le⟩, hinc1⟩
  obtain ⟨hn, h0, h2⟩ := fadd_below_two (m.sub 1) hphase hinc
  unfold phaseNext
  simp only
  split
  · next hge =>
    have h1 := ((fge_iff _ _).1 hge).2
    exact fsub_one_phase (m.sub 2) (by simpa using h1) h2
  · next hge =>
    rw [fge_iff, fVal_fOne] at hge
    exact (fPhase_iff _).2 ⟨hn, h0, not_le.1 fun h => hge ⟨⟨hn, by decide⟩, h⟩⟩

end Sys2Proof.Machine

/-! ## The envelope level -/

namespace Sys2Proof.Machine

/-- A number, maybe infinite, whose sign bit is 0. -/
structure Unsigned (x : F32) : Prop where
  number : fIsNaN x = false
  sign   : fSign x = false

theorem Unsigned.val {x : F32} (h : Unsigned x) : 0 ≤ fVal x := by
  rw [fVal_of_sign_false h.sign]
  omega

theorem Unsigned.fFlush (m : Fp) {x : F32} (h : Unsigned x) : Unsigned (fFlush m x) :=
  ⟨fFlush_number m h.number, (fFlush_sign m x).trans h.sign⟩

theorem roundRat_unsigned (num den : Nat) : Unsigned (roundRat false num den) :=
  ⟨roundRat_not_nan _ _ _, roundRat_sign _ _ _⟩

/-- A product of finite data without sign has no sign (rule R124). -/
theorem fmul_unsigned (m : Fp) {x y : F32} (hx : fIsFinite x = true) (hy : fIsFinite y = true)
    (hxs : fSign x = false) (hys : fSign y = false) : Unsigned (fmul m x y) := by
  have ha := fFlush_finite m hx
  have hb := fFlush_finite m hy
  simp only [fmul, fmulCore, fIsFinite_number ha, fIsFinite_number hb, fIsFinite_not_inf ha, fIsFinite_not_inf hb,
    fFlush_sign, hxs, hys, Bool.or_self, Bool.false_eq_true, if_false, bne_self_eq_false]
  exact (roundRat_unsigned _ _).fFlush m

/-- The reciprocal of a number without sign has none: an infinity of a zero, a zero of an infinity (rules R124, R125). -/
theorem fdiv_fOne_unsigned (m : Fp) {y : F32} (hy : Unsigned y) : Unsigned (fdiv m fOne y) := by
  have hb := hy.fFlush m
  have hone : Machine.fFlush m fOne = fOne := fFlush_normal m fOne (by decide)
  have hn : fIsNaN fOne = false := by decide
  have hi : fIsInf fOne = false := by decide
  have hz : fIsZero fOne = false := by decide
  have hs : fSign fOne = false := by decide
  simp only [fdiv, fdivCore, hone, hn, hi, hz, hs, hb.number, hb.sign, Bool.or_self, Bool.false_eq_true, if_false,
    bne_self_eq_false]
  split
  · exact ⟨by decide, by decide⟩
  · split
    · exact ⟨by decide, by decide⟩
    · exact (roundRat_unsigned _ _).fFlush m

theorem fFinitePos_finite_sign {x : F32} (h : fFinitePos x = true) : fIsFinite x = true ∧ fSign x = false := by
  simp only [fFinitePos, Bool.and_eq_true, flt_iff, fVal_fZero] at h
  obtain ⟨hf, -, hpos⟩ := h
  refine ⟨hf, ?_⟩
  by_contra hs
  rw [fVal_of_sign_true (by simpa using hs)] at hpos
  omega

/-- A stage's rate is a number without sign, infinite for a time of 0 (rules R170, R180). -/
theorem envRate_unsigned (m : Fp) {sec sr : F32} (hsec : fIsFinite sec = true) (hs : fSign sec = false)
    (hsr : fFinitePos sr = true) : Unsigned (envRate m sec sr) := by
  obtain ⟨hsrf, hsrs⟩ := fFinitePos_finite_sign hsr
  exact fdiv_fOne_unsigned _ (fmul_unsigned _ hsec hsrf hs hsrs)

/-- A level that has been flushed still lies in `[0, 1]`. -/
theorem fFlush_level (m : Fp) {level : F32} (h : fUnit level) :
    fIsFinite (fFlush m level) = true ∧ 0 ≤ fVal (fFlush m level) ∧ fVal (fFlush m level) ≤ 2 ^ 149 := by
  obtain ⟨-, h0, h1⟩ := (fUnit_iff level).1 h
  have hf0 := fFlush_val_nonneg m h0
  have hf1 := fFlush_val_le m (by decide) h1
  exact ⟨fIsFinite_of_val hf0 (by omega), hf0, hf1⟩

/-- A rate added to a level gives a number that is not negative, maybe infinite. -/
theorem fadd_level_rate (m : Fp) {level rate : F32} (hl : fUnit level) (hr : Unsigned rate) :
    fIsNaN (fadd m level rate) = false ∧ 0 ≤ fVal (fadd m level rate) := by
  obtain ⟨ha, ha0, -⟩ := fFlush_level m hl
  have hb := hr.fFlush m
  refine ⟨faddCore_number m ha hb.number, ?_⟩
  rw [fadd]
  cases hi : fIsInf (fFlush m rate) with
  | true =>
    rw [faddCore_inf m ha hi hb.number]
    exact hb.val
  | false => exact faddCore_nonneg m ha (fIsFinite_of_number hb.number hi) (by have := hb.val; omega)

/-- A rate subtracted from a level gives a number up to 1, maybe infinite. -/
theorem fsub_level_rate (m : Fp) {level rate : F32} (hl : fUnit level) (hr : Unsigned rate) :
    fIsNaN (fsub m level rate) = false ∧ fVal (fsub m level rate) ≤ 2 ^ 149 := by
  obtain ⟨ha, -, ha1⟩ := fFlush_level m hl
  have hb := hr.fFlush m
  have hbn : fIsNaN (fNeg (fFlush m rate)) = false := by rw [fNeg_isNaN, hb.number]
  have hb0 : fVal (fNeg (fFlush m rate)) ≤ 0 := by
    rw [fNeg_val]
    have := hb.val
    omega
  refine ⟨faddCore_number m ha hbn, ?_⟩
  rw [fsub]
  cases hi : fIsInf (fNeg (fFlush m rate)) with
  | true =>
    rw [faddCore_inf m ha hi hbn]
    omega
  | false =>
    have hone : fMag fOne = 2 ^ 149 := by decide +kernel
    have := faddCore_le m ha (fIsFinite_of_number hbn hi) fOne (by omega)
    omega

theorem fUnit_fOne : fUnit fOne := by rw [fUnit_iff]; decide +kernel

theorem fUnit_fZero : fUnit fZero := by rw [fUnit_iff]; decide +kernel

/-- A number up to 1 that is not at or below a bound in `[0, 1]` lies in `[0, 1]`. -/
theorem fUnit_of_not_fle {x b : F32} (hx : fIsNaN x = false) (h1 : fVal x ≤ 2 ^ 149) (hb : fUnit b)
    (h : ¬ fle x b = true) : fUnit x := by
  obtain ⟨hbn, hb0, -⟩ := (fUnit_iff b).1 hb
  rw [fle_iff] at h
  have hlt : fVal b < fVal x := not_le.1 fun hle => h ⟨⟨hx, hbn⟩, hle⟩
  exact (fUnit_iff x).2 ⟨hx, by omega, h1⟩

theorem envAttack_level (m : Fp) {e : Env} (hl : fUnit e.level) (hs : fUnit e.s) (hr : Unsigned (envRate m e.a e.sr)) :
    fUnit (envAttack m e).level := by
  obtain ⟨hn, h0⟩ := fadd_level_rate (m.sub 2) hl hr
  unfold envAttack
  simp only
  split
  · split
    · exact hs
    · exact fUnit_fOne
  · next hge =>
    rw [fge_iff, fVal_fOne] at hge
    have hlt := not_le.1 fun h => hge ⟨⟨hn, by decide⟩, h⟩
    exact (fUnit_iff _).2 ⟨hn, h0, hlt.le⟩

theorem envDecay_level (m : Fp) {e : Env} (hl : fUnit e.level) (hs : fUnit e.s) (hr : Unsigned (envRate m e.d e.sr)) :
    fUnit (envDecay m e).level := by
  obtain ⟨hn, h1⟩ := fsub_level_rate (m.sub 2) hl hr
  unfold envDecay
  simp only
  split
  · exact hs
  · next hle => exact fUnit_of_not_fle hn h1 hs hle

theorem envRelease_level (m : Fp) {e : Env} (hl : fUnit e.level) (hr : Unsigned (envRate m e.r e.sr)) :
    fUnit (envRelease m e).level := by
  obtain ⟨hn, h1⟩ := fsub_level_rate (m.sub 2) hl hr
  unfold envRelease
  simp only
  split
  · exact fUnit_fZero
  · next hle => exact fUnit_of_not_fle hn h1 fUnit_fZero hle

/-- Settles O29, stage by stage: a rate has no sign, so Attack only rises and Decay and Release only fall, each towards
a bound in `[0, 1]`. -/
theorem envLevelStaysInUnitInterval : Obligations.EnvLevelStaysInUnitInterval := by
  intro m e hl hs hsr ht
  have hrate : ∀ t, t = e.a ∨ t = e.d ∨ t = e.r → Unsigned (envRate m t e.sr) := fun t h =>
    envRate_unsigned m (ht t h).1 (ht t h).2 hsr
  unfold envNext
  split
  · exact hl
  · exact envAttack_level m hl hs (hrate _ (.inl rfl))
  · exact envDecay_level m hl hs (hrate _ (.inr (.inl rfl)))
  · exact hl
  · exact envRelease_level m hl (hrate _ (.inr (.inr rfl)))

end Sys2Proof.Machine

/-! ## The parameter latch -/

namespace Sys2Proof.Machine

theorem Params.get_set (p : Params) (j k : Fin 8) (w : Word) :
    (p.set j w).get k = if j = k then w else p.get k := by
  fin_cases j <;> fin_cases k <;> rfl

/-- The parameters after control-host writes have landed one after another. -/
def Params.land (p : Params) (ws : List CtlWrite) : Params := ws.foldl (fun p x => p.set x.k x.w) p

theorem Params.land_append (p : Params) (ws vs : List CtlWrite) : p.land (ws ++ vs) = (p.land ws).land vs :=
  List.foldl_append

theorem Params.land_concat (p : Params) (ws : List CtlWrite) (x : CtlWrite) :
    p.land (ws ++ [x]) = (p.land ws).set x.k x.w := p.land_append ws [x]

/-- A register that some writes name holds the word of one of them; one that none of them names holds its old value. -/
theorem Params.get_land (p : Params) (ws : List CtlWrite) (k : Fin 8) :
    ((∀ x ∈ ws, x.k ≠ k) ∧ (p.land ws).get k = p.get k) ∨ ∃ x ∈ ws, x.k = k ∧ (p.land ws).get k = x.w := by
  induction ws using List.reverseRecOn with
  | nil => exact .inl ⟨by simp, rfl⟩
  | append_singleton ws x ih =>
    rw [land_concat, get_set]
    by_cases hx : x.k = k
    · exact .inr ⟨x, by simp, hx, if_pos hx⟩
    · rw [if_neg hx]
      rcases ih with ⟨hno, hold⟩ | ⟨y, hy, hyk, hw⟩
      · exact .inl ⟨by simpa [hx, or_imp, forall_and] using hno, hold⟩
      · exact .inr ⟨y, by simp [hy], hyk, hw⟩

/-- The writes that fall before the end of the first `n` latch reads, in the order in which they land (rule R66). -/
def writesBefore (n : Nat) (ws : List CtlWrite) : List CtlWrite :=
  (List.range n).flatMap fun i => ws.filter fun x => decide (x.slot = i)

theorem mem_writesBefore {n : Nat} {ws : List CtlWrite} {x : CtlWrite} :
    x ∈ writesBefore n ws ↔ x ∈ ws ∧ x.slot < n := by
  simp [writesBefore, and_comm]

theorem writesBefore_succ (n : Nat) (ws : List CtlWrite) :
    writesBefore (n + 1) ws = writesBefore n ws ++ ws.filter fun x => decide (x.slot = n) := by
  simp [writesBefore, List.range_succ]

theorem landSlot_eq (i : Nat) (s : State) :
    landSlot i s = { s with params := s.params.land (s.during.filter fun x => decide (x.slot = i)) } :=
  foldl_landWrite _ s

theorem latchRead_eq (k : Fin 8) (s : State) :
    latchRead k s = { landSlot k s with snap := s.snap.set k ((landSlot k s).params.get k) } := by
  rw [latchRead, landSlot_eq]

/-- The state after the first `n` latch reads. -/
def latchReads (s : State) : Nat → State
  | 0 => s
  | n + 1 => if h : n < 8 then latchRead ⟨n, h⟩ (latchReads s n) else latchReads s n

theorem latchReads_succ (s : State) {n : Nat} (h : n < 8) :
    latchReads s (n + 1) = latchRead ⟨n, h⟩ (latchReads s n) := dif_pos h

theorem latchSnapshot_snap (s : State) : (latchSnapshot s).snap = (latchReads s 8).snap := by
  simp [latchSnapshot, latchReads]

/-- The latch reads change no write, and the writes before them have landed (rule R66). -/
theorem latchReads_params (s : State) {n : Nat} (h : n ≤ 8) :
    (latchReads s n).during = s.during ∧ (latchReads s n).params = s.params.land (writesBefore n s.during) := by
  induction n with
  | zero => exact ⟨rfl, rfl⟩
  | succ n ih =>
    obtain ⟨hd, hp⟩ := ih (by omega)
    rw [latchReads_succ s h, latchRead_eq, landSlot_eq]
    exact ⟨hd, by rw [writesBefore_succ, Params.land_append, ← hp, ← hd]⟩

/-- `S[k]` is `P[k]` as latch read `k` met it, whatever reads follow. -/
theorem latchReads_snap (s : State) (k : Fin 8) {n : Nat} (hk : k.val + 1 ≤ n) (hn : n ≤ 8) :
    (latchReads s n).snap.get k = (latchReads s (k.val + 1)).params.get k := by
  induction n, hk using Nat.le_induction with
  | base =>
    rw [latchReads_succ s k.isLt, latchRead_eq]
    exact (Params.get_set _ _ _ _).trans (if_pos rfl)
  | succ n hk ih =>
    have hne : (⟨n, hn⟩ : Fin 8) ≠ k := fun h => by simp [← h] at hk
    rw [latchReads_succ s hn, latchRead_eq, ← ih (by omega)]
    exact (Params.get_set _ _ _ _).trans (if_neg hne)

theorem latchSnapshot_get (s : State) (k : Fin 8) :
    (latchSnapshot s).snap.get k = (s.params.land (writesBefore (k.val + 1) s.during)).get k := by
  rw [latchSnapshot_snap, latchReads_snap s k k.isLt le_rfl, (latchReads_params s k.isLt).2]

/-- A latched parameter is the word of a write that met its latch read, and the old value if there is none
(rules R66, R257). -/
theorem latchSnapshot_get_cases (s : State) (k : Fin 8) :
    ((∀ x ∈ s.during, x.k = k → k.val < x.slot) ∧ (latchSnapshot s).snap.get k = s.params.get k)
    ∨ ∃ x ∈ s.during, x.k = k ∧ x.slot ≤ k.val ∧ (latchSnapshot s).snap.get k = x.w := by
  rw [latchSnapshot_get]
  rcases s.params.get_land (writesBefore (k.val + 1) s.during) k with ⟨hno, hold⟩ | ⟨x, hx, hxk, hw⟩
  · refine .inl ⟨fun x hx hxk => not_le.1 fun hle => ?_, hold⟩
    exact hno x (mem_writesBefore.2 ⟨hx, Nat.lt_succ_of_le hle⟩) hxk
  · obtain ⟨hmem, hlt⟩ := mem_writesBefore.1 hx
    exact .inr ⟨x, hmem, hxk, Nat.le_of_lt_succ hlt, hw⟩

/-- Settles O47, from the two cases of a latched parameter: a write that meets the latch read excludes the old value. -/
theorem latchTakesOldOrNewValue : Obligations.LatchTakesOldOrNewValue := by
  intro s k
  rcases latchSnapshot_get_cases s k with ⟨hlate, hold⟩ | ⟨x, hx, hxk, hle, hw⟩
  · refine ⟨.inl hold, fun _ => hold, fun x hd hxk hle => ?_⟩
    exact absurd (hlate x (by simp [hd]) hxk) (not_lt.2 hle)
  · refine ⟨.inr ⟨x, hx, hxk, hle, hw⟩, fun hlate => absurd (hlate x hx hxk) (not_lt.2 hle), fun y hd _ _ => ?_⟩
    obtain rfl : x = y := by simpa [hd] using hx
    exact hw

end Sys2Proof.Machine

/-! ## The command word -/

namespace Sys2Proof

/-! ### Its fields -/

@[simp] theorem opcField_commandWord (opc v : BitVec 8) (imm : BitVec 16) : opcField (commandWord opc v imm) = opc := by
  rw [opcField, commandWord, BitVec.extractLsb'_append_eq_of_le (by decide)]
  exact BitVec.extractLsb'_append_eq_left

@[simp] theorem vidxField_commandWord (opc v : BitVec 8) (imm : BitVec 16) : vidxField (commandWord opc v imm) = v := by
  rw [vidxField, commandWord, BitVec.extractLsb'_append_eq_of_le (by decide)]
  exact BitVec.extractLsb'_append_eq_right

@[simp] theorem immField_commandWord (opc v : BitVec 8) (imm : BitVec 16) : immField (commandWord opc v imm) = imm :=
  BitVec.extractLsb'_append_eq_right

/-- A word is its three fields (rule R90). -/
theorem commandWord_fields (w : Word) : commandWord (opcField w) (vidxField w) (immField w) = w := by
  rw [commandWord, opcField, vidxField, immField,
    BitVec.extractLsb'_append_extractLsb'_eq_extractLsb' (show 24 = 16 + 8 from rfl)]
  exact BitVec.extractLsb'_append_extractLsb'

theorem noteField_eq (w : Word) : noteField w = (immField w).extractLsb' 0 7 :=
  (BitVec.extractLsb'_extractLsb'_of_le (by decide)).symm

theorem wselField_eq (w : Word) : wselField w = (immField w).extractLsb' 0 2 :=
  (BitVec.extractLsb'_extractLsb'_of_le (by decide)).symm

theorem getLsbD_eq_immField {k : Nat} (w : Word) (h : k < 16) : w.getLsbD k = (immField w).getLsbD k := by
  rw [immField, BitVec.getLsbD_extractLsb', Nat.zero_add, decide_eq_true h, Bool.true_and]

/-- The bits above the note, where `TAILOFF` and `TYPE` of the pool's commands stand (rule R93). -/
theorem getLsbD_eight_add {k : Nat} (w : Word) (h : k < 8) :
    w.getLsbD (8 + k) = ((immField w).extractLsb' 8 8).getLsbD k := by
  rw [getLsbD_eq_immField w (by omega), BitVec.getLsbD_extractLsb', decide_eq_true h, Bool.true_and]

theorem decide_kindField_eq_noteOn (w : Word) : decide (kindField w = .noteOn) = w.getLsbD 9 := by
  unfold kindField
  cases w.getLsbD 9 <;> rfl

/-! ### Its immediate -/

@[simp] theorem noteImm_note (hi : BitVec 8) (note : BitVec 7) : (noteImm hi note).extractLsb' 0 7 = note :=
  BitVec.extractLsb'_append_eq_right

@[simp] theorem noteImm_high (hi : BitVec 8) (note : BitVec 7) : (noteImm hi note).extractLsb' 8 8 = hi := by
  rw [noteImm, BitVec.extractLsb'_append_eq_of_le (by decide)]
  exact BitVec.extractLsb'_append_eq_left

theorem noteImm_zero_and (note : BitVec 7) : noteImm 0#8 note &&& 0xFF80#16 = 0#16 :=
  Laws.noteImm_and 0#8 0xFF#8 note rfl

theorem eq_zero_of_and_allOnes {n : Nat} {x : BitVec n} (h : x &&& BitVec.allOnes n = 0#n) : x = 0#n :=
  BitVec.and_allOnes.symm.trans h

/-- Bits that must be zero, above `l` free ones. -/
theorem eq_zero_append {h l : Nat} {x : BitVec (h + l)} (hx : x &&& (BitVec.allOnes h ++ 0#l) = 0#(h + l)) :
    x = 0#h ++ x.extractLsb' 0 l := by
  have hhigh := congrArg (BitVec.extractLsb' l h) hx
  rw [BitVec.extractLsb'_and, BitVec.extractLsb'_append_eq_left, BitVec.and_allOnes, BitVec.extractLsb'_zero] at hhigh
  rw [← hhigh, BitVec.extractLsb'_append_extractLsb']

/-- Bits that must be zero, above one flag. -/
theorem eq_zero_append_ofBool {h : Nat} {x : BitVec (h + 1)} (hx : x &&& (BitVec.allOnes h ++ 0#1) = 0#(h + 1)) :
    x = 0#h ++ BitVec.ofBool (x.getLsbD 0) := by
  rw [← BitVec.setWidth_one, BitVec.setWidth_eq_extractLsb' (by omega)]
  exact eq_zero_append hx

/-- The converse of `Laws.noteImm_and`: where bit 7 must be zero, the immediate is a note below the bits that stand
above it, of which those in `m` are zero. -/
theorem eq_noteImm {imm : BitVec 16} {m : BitVec 8} (h : imm &&& (m ++ 1#1 ++ 0#7) = 0#16) :
    imm.extractLsb' 8 8 &&& m = 0#8 ∧ imm = noteImm (imm.extractLsb' 8 8) (imm.extractLsb' 0 7) := by
  have hhigh := congrArg (BitVec.extractLsb' 8 8) h
  have hbit := congrArg (BitVec.extractLsb' 7 1) h
  rw [BitVec.extractLsb'_and, BitVec.extractLsb'_append_eq_of_le (by decide), BitVec.extractLsb'_zero] at hhigh hbit
  rw [BitVec.extractLsb'_append_eq_left] at hhigh
  rw [BitVec.extractLsb'_append_eq_right] at hbit
  refine ⟨hhigh, ?_⟩
  have happend : imm.extractLsb' 8 8 ++ imm.extractLsb' 7 1 = imm.extractLsb' 7 9 :=
    BitVec.extractLsb'_append_extractLsb'_eq_extractLsb' rfl
  rw [noteImm, ← eq_zero_of_and_allOnes hbit, happend]
  exact (BitVec.extractLsb'_append_extractLsb' (w := 9) (len := 7)).symm

/-- An immediate of a note command, from what stands above the note. -/
theorem immField_eq_noteImm {w : Word} {m hi : BitVec 8} (h : immField w &&& (m ++ 1#1 ++ 0#7) = 0#16)
    (hhi : (immField w).extractLsb' 8 8 &&& m = 0#8 → (immField w).extractLsb' 8 8 = hi) :
    immField w = noteImm hi (noteField w) := by
  obtain ⟨hm, himm⟩ := eq_noteImm h
  rw [noteField_eq, ← hhi hm]
  exact himm

theorem immField_eq_note {w : Word} (h : immField w &&& 0xFF80#16 = 0#16) : immField w = noteImm 0#8 (noteField w) :=
  immField_eq_noteImm (m := 0xFF#8) h eq_zero_of_and_allOnes

/-! ### Decoding an encoded command -/

theorem decodeUnit_ok_iff {w : Word} {mbz : BitVec 16} {i j : Instr} :
    decodeUnit w mbz i = .ok j ↔ immField w &&& mbz = 0#16 ∧ i = j := by
  unfold decodeUnit
  split <;> simp [*]

theorem decodeGlobal_ok_iff {w : Word} {mbz : BitVec 16} {i j : Instr} :
    decodeGlobal w mbz i = .ok j ↔ vidxField w = 0#8 ∧ immField w &&& mbz = 0#16 ∧ i = j := by
  unfold decodeGlobal
  split <;> simp [*, decodeUnit_ok_iff]

/-- The opcode selects the arm of the decoder; there the immediate has no bit that must be zero, and its operands are
those that were packed. -/
theorem decode_encode (i : Instr) : decode (encode i) = .ok i := by
  cases i with
  | oscSetwave v wsel =>
    have hmbz : (0#14 ++ wsel) &&& 0xFFFC#16 = 0#16 := by revert wsel; decide
    have hwsel : (0#14 ++ wsel).extractLsb' 0 2 = wsel := BitVec.extractLsb'_append_eq_right
    simp [encode, decode, decodeUnit_ok_iff, wselField_eq, hmbz, hwsel]
  | vStart v note =>
    simp [encode, decode, decodeUnit_ok_iff, noteField_eq, noteImm_zero_and]
  | vStop v tail =>
    simp only [encode, decode, opcField_commandWord, vidxField_commandWord]
    refine decodeUnit_ok_iff.2 ?_
    rw [getLsbD_eq_immField _ (by decide), immField_commandWord]
    cases tail <;> exact ⟨rfl, rfl⟩
  | pNoteon note =>
    simp [encode, decode, decodeGlobal_ok_iff, noteField_eq, noteImm_zero_and]
  | pNoteoff note tail =>
    simp only [encode, decode, opcField_commandWord]
    refine decodeGlobal_ok_iff.2 ?_
    rw [getLsbD_eight_add (k := 0) _ (by decide), noteField_eq, vidxField_commandWord,
      immField_commandWord, noteImm_high, noteImm_note]
    refine ⟨rfl, Laws.noteImm_and _ 0xFE#8 note ?_, ?_⟩ <;> cases tail <;> rfl
  | pEvent kind note tail =>
    simp only [encode, decode, opcField_commandWord]
    refine decodeGlobal_ok_iff.2 ?_
    rw [kindField, getLsbD_eight_add (k := 0) _ (by decide), getLsbD_eight_add (k := 1) _ (by decide), noteField_eq,
      vidxField_commandWord, immField_commandWord, noteImm_high, noteImm_note]
    refine ⟨rfl, Laws.noteImm_and _ 0xFC#8 note ?_, ?_⟩ <;> cases kind <;> cases tail <;> rfl
  | sysReset | pPrepare | pRender => simp [encode, decode, decodeGlobal_ok_iff]
  | _ => simp [encode, decode, decodeUnit_ok_iff]

/-! ### Encoding a decoded command -/

theorem encode_eq_of_opcField {w : Word} {i : Instr} {n : Nat} (hopc : (opcField w).toNat = n)
    (h : encode i = commandWord (BitVec.ofNat 8 n) (vidxField w) (immField w)) : encode i = w := by
  rw [h, ← hopc, BitVec.ofNat_toNat, BitVec.setWidth_eq, commandWord_fields]

theorem encode_of_decodeUnit {w : Word} {mbz imm : BitVec 16} {i j : Instr} {n : Nat}
    (hopc : (opcField w).toNat = n) (h : decodeUnit w mbz j = .ok i)
    (hj : encode j = commandWord (BitVec.ofNat 8 n) (vidxField w) imm)
    (himm : immField w &&& mbz = 0#16 → immField w = imm) : encode i = w := by
  obtain ⟨hmbz, rfl⟩ := decodeUnit_ok_iff.1 h
  exact encode_eq_of_opcField hopc (by rw [himm hmbz, hj])

theorem encode_of_decodeGlobal {w : Word} {mbz imm : BitVec 16} {i j : Instr} {n : Nat}
    (hopc : (opcField w).toNat = n) (h : decodeGlobal w mbz j = .ok i)
    (hj : encode j = commandWord (BitVec.ofNat 8 n) 0#8 imm)
    (himm : immField w &&& mbz = 0#16 → immField w = imm) : encode i = w := by
  obtain ⟨hv, hmbz, rfl⟩ := decodeGlobal_ok_iff.1 h
  exact encode_eq_of_opcField hopc (by rw [hv, himm hmbz, hj])

/-- Arm by arm: the bits that must be zero leave of the immediate just the operands that the command carries. -/
theorem encode_of_decode {w : Word} {i : Instr} (h : decode w = .ok i) : encode i = w := by
  unfold decode at h
  simp only at h
  split at h
  next hopc => exact encode_of_decodeGlobal hopc h rfl eq_zero_of_and_allOnes -- `SYS.RESET`
  next hopc => -- `OSC.SETWAVE`
    refine encode_of_decodeUnit hopc h rfl fun hmbz => ?_
    rw [wselField_eq]
    exact eq_zero_append (h := 14) (l := 2) hmbz
  iterate 18 -- `OSC.SETFREQ` to `V.PREPARE`
    next hopc => exact encode_of_decodeUnit hopc h rfl eq_zero_of_and_allOnes
  next hopc => exact encode_of_decodeUnit hopc h rfl immField_eq_note -- `V.START`
  next hopc => -- `V.STOP`
    refine encode_of_decodeUnit hopc h rfl fun hmbz => ?_
    rw [getLsbD_eq_immField w (by decide)]
    exact eq_zero_append_ofBool (h := 15) hmbz
  next hopc => exact encode_of_decodeUnit hopc h rfl eq_zero_of_and_allOnes -- `V.RENDER`
  next hopc => exact encode_of_decodeUnit hopc h rfl fun _ => rfl -- `V.UPDOSC`
  iterate 3 -- `V.UPDFLT` to `V.QUERY`
    next hopc => exact encode_of_decodeUnit hopc h rfl eq_zero_of_and_allOnes
  next hopc => exact encode_of_decodeGlobal hopc h rfl eq_zero_of_and_allOnes -- `P.PREPARE`
  next hopc => exact encode_of_decodeGlobal hopc h rfl immField_eq_note -- `P.NOTEON`
  next hopc => -- `P.NOTEOFF`
    refine encode_of_decodeGlobal hopc h rfl fun hmbz => immField_eq_noteImm (m := 0xFE#8) hmbz fun hm => ?_
    rw [getLsbD_eight_add (k := 0) w (by decide)]
    exact eq_zero_append_ofBool (h := 7) hm
  next hopc => exact encode_of_decodeGlobal hopc h rfl eq_zero_of_and_allOnes -- `P.RENDER`
  next hopc => -- `P.EVENT`
    refine encode_of_decodeGlobal hopc h rfl fun hmbz => immField_eq_noteImm (m := 0xFC#8) hmbz fun hm => ?_
    rw [decide_kindField_eq_noteOn, getLsbD_eight_add (k := 0) w (by decide), getLsbD_eight_add (k := 1) w (by decide)]
    generalize (immField w).extractLsb' 8 8 = hi at hm
    revert hi
    decide
  next => split at h <;> cases h -- no opcode of the map

/-! ### The rows of the opcode map -/

/-- A command's word spells the command's own row (rule R92). -/
theorem encode_spells_row : ∀ i : Instr, Laws.EncodesItsRow.Statement i
  | .sysReset => Laws.EncodesItsRow.sysReset
  | .oscSetwave v wsel => Laws.EncodesItsRow.oscSetwave v wsel
  | .oscSetfreq v => Laws.EncodesItsRow.oscSetfreq v
  | .oscSetsr v => Laws.EncodesItsRow.oscSetsr v
  | .oscReset v => Laws.EncodesItsRow.oscReset v
  | .oscNext v => Laws.EncodesItsRow.oscNext v
  | .envNoteon v => Laws.EncodesItsRow.envNoteon v
  | .envNoteoff v => Laws.EncodesItsRow.envNoteoff v
  | .envNext v => Laws.EncodesItsRow.envNext v
  | .envSetparams v => Laws.EncodesItsRow.envSetparams v
  | .envSetsr v => Laws.EncodesItsRow.envSetsr v
  | .envIsactive v => Laws.EncodesItsRow.envIsactive v
  | .envGetlevel v => Laws.EncodesItsRow.envGetlevel v
  | .envGetstage v => Laws.EncodesItsRow.envGetstage v
  | .fltPrepare v => Laws.EncodesItsRow.fltPrepare v
  | .fltReset v => Laws.EncodesItsRow.fltReset v
  | .fltSetcutoff v => Laws.EncodesItsRow.fltSetcutoff v
  | .fltSetres v => Laws.EncodesItsRow.fltSetres v
  | .fltProcess v => Laws.EncodesItsRow.fltProcess v
  | .vPrepare v => Laws.EncodesItsRow.vPrepare v
  | .vStart v note => Laws.EncodesItsRow.vStart v note
  | .vStop v tail => Laws.EncodesItsRow.vStop v tail
  | .vRender v => Laws.EncodesItsRow.vRender v
  | .vUpdosc v widx => Laws.EncodesItsRow.vUpdosc v widx
  | .vUpdflt v => Laws.EncodesItsRow.vUpdflt v
  | .vUpdadsr v => Laws.EncodesItsRow.vUpdadsr v
  | .vQuery v => Laws.EncodesItsRow.vQuery v
  | .pPrepare => Laws.EncodesItsRow.pPrepare
  | .pNoteon note => Laws.EncodesItsRow.pNoteon note
  | .pNoteoff note tail => Laws.EncodesItsRow.pNoteoff note tail
  | .pRender => Laws.EncodesItsRow.pRender
  | .pEvent kind note tail => Laws.EncodesItsRow.pEvent kind note tail

/-- A word that decodes spells the row of its command. -/
theorem exists_row_of_decode {w : Word} {i : Instr} (h : decode w = .ok i) :
    ∃ r ∈ opcodeRows, i.row? = some r ∧ w &&& r.mask = r.pattern := by
  obtain ⟨r, hrow, hspells⟩ := encode_spells_row i
  rw [encode_of_decode h] at hspells
  exact ⟨r, List.mem_of_getElem? hrow, hrow, beq_iff_eq.1 hspells⟩

theorem opcodeRows_fields : ∀ r ∈ opcodeRows,
    opcField r.mask = BitVec.allOnes 8 ∧ vidxField r.pattern = 0#8 ∧ immField r.pattern = 0#16 := by decide

/-- What a row asks of a word, field by field (rules R91, R92). -/
theorem fields_of_spells {w : Word} {r : OpcodeRow} (hr : r ∈ opcodeRows) (h : w &&& r.mask = r.pattern) :
    opcField w = opcField r.pattern ∧ vidxField w &&& vidxField r.mask = 0#8
      ∧ immField w &&& immField r.mask = 0#16 := by
  obtain ⟨hopc, hv, himm⟩ := opcodeRows_fields r hr
  refine ⟨?_, ?_, ?_⟩
  · have hand : opcField (w &&& r.mask) = opcField w &&& opcField r.mask := BitVec.extractLsb'_and
    rw [← h, hand, hopc, BitVec.and_allOnes]
  · rw [← hv, ← h]
    exact BitVec.extractLsb'_and.symm
  · rw [← himm, ← h]
    exact BitVec.extractLsb'_and.symm

/-- Row by row: a word that spells the row meets the checks of the decoder's arm for its opcode. -/
theorem exists_decode_of_spells {w : Word} {r : OpcodeRow} (hr : r ∈ opcodeRows) (h : w &&& r.mask = r.pattern) :
    ∃ i, decode w = .ok i ∧ i.row? = some r := by
  obtain ⟨hopc, hv, himm⟩ := fields_of_spells hr h
  unfold decode
  rw [hopc]
  fin_cases hr
  · exact ⟨_, decodeGlobal_ok_iff.2 ⟨eq_zero_of_and_allOnes hv, himm, rfl⟩, rfl⟩ -- `SYS.RESET`
  iterate 26 exact ⟨_, decodeUnit_ok_iff.2 ⟨himm, rfl⟩, rfl⟩ -- the rows that name a Voice
  iterate 5 exact ⟨_, decodeGlobal_ok_iff.2 ⟨eq_zero_of_and_allOnes hv, himm, rfl⟩, rfl⟩ -- the pool's rows

/-- Settles O1, from `decode_encode`. -/
theorem decodeInvertsEncode : Obligations.DecodeInvertsEncode := decode_encode

/-- Settles O2, from `encode_of_decode`. -/
theorem encodeInvertsDecode : Obligations.EncodeInvertsDecode := fun _ _ => encode_of_decode

/-- Settles O3: a decoded word is its command's encoding, which spells that command's row; a word that spells a row
passes the decoder's checks, so two rows that it spells are both the row of the one command it decodes to. -/
theorem decodeFollowsOpcodeMap : Obligations.DecodeFollowsOpcodeMap := by
  refine ⟨fun w r hr => ⟨?_, exists_decode_of_spells hr⟩, fun w r q hr hq hwr hwq => ?_⟩
  · rintro ⟨i, hi, hrow⟩
    obtain ⟨q, -, hq, hspells⟩ := exists_row_of_decode hi
    obtain rfl : q = r := by simpa [hq] using hrow
    exact hspells
  · obtain ⟨i, hi, hir⟩ := exists_decode_of_spells hr hwr
    obtain ⟨j, hj, hjq⟩ := exists_decode_of_spells hq hwq
    obtain rfl : i = j := by simpa [hi] using hj
    simpa [hir] using hjq

/-- Settles O5: a word that decoded would spell a row. -/
theorem illegalWordOnlyRecorded : Obligations.IllegalWordOnlyRecorded := by
  intro s h
  unfold Machine.runCommand
  split
  · next i hi =>
    obtain ⟨r, hr, -, hspells⟩ := exists_row_of_decode hi
    exact absurd hspells (h r hr)
  · rfl

end Sys2Proof

/-! ## `V.QUERY` -/

namespace Sys2Proof.Machine

/-- Fields packed without overlap can be cut out again; the widths are those of rule R102. -/
theorem packed_fields {n a b c st w p k : Nat} (hn : n < 2 ^ 7) (ha : a < 2) (hb : b < 2) (hc : c < 2)
    (hst : st < 2 ^ 3) (hw : w < 2 ^ 2) (hp : p < 2)
    (hk : k = n + a * 2 ^ 7 + b * 2 ^ 8 + c * 2 ^ 9 + st * 2 ^ 10 + w * 2 ^ 13 + p * 2 ^ 15) :
    k % 2 ^ 7 = n ∧ k / 2 ^ 7 % 2 = a ∧ k / 2 ^ 8 % 2 = b ∧ k / 2 ^ 9 % 2 = c ∧ k / 2 ^ 10 % 2 ^ 3 = st
      ∧ k / 2 ^ 13 % 2 ^ 2 = w ∧ k / 2 ^ 15 % 2 = p ∧ k < 2 ^ 16 := by
  omega

theorem boolNat_lt (b : Bool) : boolNat b < 2 := by cases b <;> decide

theorem Stage.code_lt (x : Stage) : x.code < 2 ^ 3 := by cases x <;> decide

theorem Waveform.code_lt (w : Waveform) : Waveform.code w < 2 ^ 2 := by cases w <;> decide

theorem queryWord_eq (x : Voice) :
    queryWord x = BitVec.ofNat 32 ((x.note.getD 0#7).toNat + boolNat x.note.isSome * 2 ^ 7 + boolNat x.active * 2 ^ 8
      + boolNat x.ready * 2 ^ 9 + x.env.stage.code * 2 ^ 10 + Waveform.code x.osc.wave * 2 ^ 13
      + boolNat x.flt.prepared * 2 ^ 15) := by
  unfold queryWord
  cases x.note <;> rfl

/-- The fields of the packed word, as numbers (rule R102). -/
theorem queryWord_fields (x : Voice) :
    let k := (queryWord x).toNat
    k % 2 ^ 7 = (x.note.getD 0#7).toNat ∧ k / 2 ^ 7 % 2 = boolNat x.note.isSome ∧ k / 2 ^ 8 % 2 = boolNat x.active
      ∧ k / 2 ^ 9 % 2 = boolNat x.ready ∧ k / 2 ^ 10 % 2 ^ 3 = x.env.stage.code
      ∧ k / 2 ^ 13 % 2 ^ 2 = Waveform.code x.osc.wave ∧ k / 2 ^ 15 % 2 = boolNat x.flt.prepared ∧ k < 2 ^ 16 := by
  intro k
  have h := packed_fields (x.note.getD 0#7).isLt (boolNat_lt x.note.isSome) (boolNat_lt x.active) (boolNat_lt x.ready)
    x.env.stage.code_lt (Waveform.code_lt x.osc.wave) (boolNat_lt x.flt.prepared) rfl
  have hk : k = _ := (congrArg BitVec.toNat (queryWord_eq x)).trans (Nat.mod_eq_of_lt (by omega))
  rw [hk]
  exact h

theorem getLsbD_of_toNat {w : Word} {i : Nat} {b : Bool} (h : w.toNat / 2 ^ i % 2 = boolNat b) : w.getLsbD i = b := by
  rw [BitVec.getLsbD, Nat.testBit_eq_decide_div_mod_eq, h]
  cases b <;> rfl

/-- A Voice that exists is queried: only `R0` is written. -/
theorem queryVoice_exists {v : BitVec 8} {s : State} (f : Voice → Word) (h : s.voiceExists v = true) :
    queryVoice v s f = .next (s.setR0 (f (s.voice v.toNat))) :=
  onVoice_exists v s _ h

/-- Settles O38, from the fields of the packed word. -/
theorem vQueryPacksFields : Obligations.VQueryPacksFields := by
  intro s v hv
  refine ⟨queryWord (s.voice v.toNat), queryVoice_exists queryWord hv, ?_⟩
  obtain ⟨hnote, hvalid, hactive, hready, hstage, hwave, hprepared, hlt⟩ := queryWord_fields (s.voice v.toNat)
  refine ⟨?_, getLsbD_of_toNat hvalid, getLsbD_of_toNat hactive, getLsbD_of_toNat hready, ?_, ?_,
    getLsbD_of_toNat hprepared, ?_⟩
  · exact BitVec.eq_of_toNat_eq (by rw [BitVec.extractLsb'_toNat, Nat.shiftRight_zero, hnote])
  · rw [BitVec.extractLsb'_toNat, Nat.shiftRight_eq_div_pow, hstage]
    rfl
  · rw [BitVec.extractLsb'_toNat, Nat.shiftRight_eq_div_pow, hwave]
    rfl
  · refine BitVec.eq_of_toNat_eq ?_
    rw [BitVec.extractLsb'_toNat, Nat.shiftRight_eq_div_pow, Nat.div_eq_of_lt hlt]
    rfl

end Sys2Proof.Machine

/-! ## What leaves `R0` alone -/

namespace Sys2Proof.Machine

/-- If the command answers a next state, `R0` is as in `s` there. -/
def KeepsR0 (s : State) (o : Out) : Prop := ∀ t, o = .next t → t.r0 = s.r0

namespace KeepsR0

variable {s : State}

theorem next {t : State} (h : t.r0 = s.r0) : KeepsR0 s (.next t) := by
  rintro _ ⟨⟩
  exact h

theorem onVoice {v : BitVec 8} {body : Nat → Out} (h : KeepsR0 s (body v.toNat)) : KeepsR0 s (onVoice v s body) :=
  onVoice_satisfies (KeepsR0 s) (.next rfl) h

theorem updVoice (v : BitVec 8) (f : Voice → Voice) : KeepsR0 s (updVoice v s f) :=
  .onVoice (.next rfl)

theorem ite {b : Prop} [Decidable b] {x y : Out} (hx : KeepsR0 s x) (hy : KeepsR0 s y) :
    KeepsR0 s (if b then x else y) := by
  split
  · exact hx
  · exact hy

/-- The rendering commands: what their frame says of the state from which they render. -/
theorem of_runs {u : State} {fits : Prop} {r : Except Fault State} (h : Runs fits (RenderFrame u) u r)
    (hu : u.r0 = s.r0) : KeepsR0 s (finish r) := fun t ht =>
  (h.ok ((finish_next_iff r t).1 ht)).r0.trans hu

end KeepsR0

/-! ### The pool's operations -/

theorem allocNoteOn_r0 (m : Fp) (n : BitVec 7) (s : State) : (allocNoteOn m n s).r0 = s.r0 := by
  unfold allocNoteOn
  split
  · rfl
  · split <;> rfl

theorem routeNoteOff_r0 (n : BitVec 7) (tail : Bool) (s : State) : (routeNoteOff n tail s).r0 = s.r0 := by
  unfold routeNoteOff
  split <;> rfl

theorem dispatchEvent_r0 (m : Fp) (e : EventRec) (s : State) : (dispatchEvent m e s).r0 = s.r0 := by
  unfold dispatchEvent
  split
  · exact allocNoteOn_r0 m _ s
  · exact routeNoteOff_r0 _ _ s

theorem dispatchList_r0 (m : Fp) (i : Nat) (l : List EventRec) (s : State) : (dispatchList m i l s).r0 = s.r0 := by
  induction l generalizing i s with
  | nil => rfl
  | cons e rest ih => exact (ih (i + 1) _).trans (dispatchEvent_r0 _ e s)

theorem dispatchEvents_r0 (m : Fp) (s : State) : (dispatchEvents m s).r0 = s.r0 := by
  rw [dispatchEvents, dispatchList_r0]

theorem applySnapshot_r0 (s : State) : (applySnapshot s).r0 = s.r0 := by
  unfold applySnapshot
  exact eachUp_keeps (fun t : State => t.r0 = s.r0) _ _ _ s (fun _ _ _ _ ht => ht) rfl

theorem latchSnapshot_r0 (s : State) : (latchSnapshot s).r0 = s.r0 := by
  rw [(latchSnapshot_latchFrame s).others]

theorem atRender_r0 (m : Fp) (s : State) : (s.atRender m).r0 = s.r0 := by
  rw [State.atRender, dispatchEvents_r0, applySnapshot_r0, latchSnapshot_r0]

theorem preparePool_r0 (m : Fp) (sr : F32) (mb nc : Word) (s : State) : (preparePool m sr mb nc s).r0 = s.r0 := by
  unfold preparePool
  exact eachUp_keeps (fun t : State => t.r0 = s.r0) _ _ _ _ (fun _ _ _ _ ht => ht) rfl

/-! ### Every command -/

/-- A command that returns no value leaves `R0` alone (rule R95). -/
theorem exec_keepsR0 (i : Instr) (s : State) (hi : i ≠ .sysReset) (h : i.returnsValue = false) :
    KeepsR0 s (exec i s) := by
  unfold exec
  cases i with
  | sysReset => exact absurd rfl hi
  | oscNext v | envNext v | envIsactive v | envGetlevel v | envGetstage v | vQuery v => cases h
  | oscSetwave v wsel =>
    refine .onVoice ?_
    cases waveOfSel wsel <;> exact .next rfl
  | fltPrepare v | vPrepare v => exact .onVoice (.ite (.next rfl) (.next rfl))
  | fltProcess v => exact .onVoice (.ite (.next rfl) (.ite (.next rfl) (.of_runs (fltProcess_runs _ _ _ _ s) rfl)))
  | vRender v => exact .onVoice (.ite (.next rfl) (.ite (.next rfl) (.of_runs (renderVoice_runs _ _ _ _ s) rfl)))
  | vStart v _ | vStop v _ => exact .onVoice (.next rfl)
  | pPrepare => exact .ite (.next (preparePool_r0 _ _ _ _ s)) (.next rfl)
  | pNoteon note => exact .next (allocNoteOn_r0 _ note s)
  | pNoteoff note tail => exact .next (routeNoteOff_r0 note tail s)
  | pRender => exact .ite (.next rfl) (.ite (.next rfl) (.of_runs (renderBlock_runs _ _ s) (atRender_r0 _ s)))
  | pEvent kind note tail => exact .ite (.next rfl) (.next rfl)
  | _ => exact .updVoice _ _

/-- Settles O59, from `exec_keepsR0`; a command error writes its record only. -/
theorem resultRegisterIsKept : Obligations.ResultRegisterIsKept := by
  intro i s t h hi
  refine ⟨fun hv => exec_keepsR0 i s hi hv t h, ?_⟩
  rintro ⟨e, rfl⟩
  rfl

/-! ## Velocity and sample offset -/

/-- The state with other words in `A0` and `A1`. -/
def State.withVelocity (s : State) (x y : Word) : State := { s with a0 := x, a1 := y }

theorem allocNoteOn_withVelocity (m : Fp) (n : BitVec 7) (s : State) (x y : Word) :
    allocNoteOn m n (s.withVelocity x y) = (allocNoteOn m n s).withVelocity x y := by
  have hassigned : findAssigned (s.withVelocity x y) n = findAssigned s n := rfl
  have hfree : findFree (s.withVelocity x y) = findFree s := rfl
  unfold allocNoteOn
  rw [hassigned, hfree]
  split
  · rfl
  · split <;> rfl

theorem routeNoteOff_withVelocity (n : BitVec 7) (tail : Bool) (s : State) (x y : Word) :
    routeNoteOff n tail (s.withVelocity x y) = (routeNoteOff n tail s).withVelocity x y := by
  have hassigned : findAssigned (s.withVelocity x y) n = findAssigned s n := rfl
  unfold routeNoteOff
  rw [hassigned]
  split <;> rfl

/-- A command on a Voice ignores `A0` and `A1` if its body does. -/
theorem onVoice_withVelocity {v : BitVec 8} {s t : State} {x y : Word} {f : State → State}
    (hf : f (s.withVelocity x y) = (f s).withVelocity x y) (h : onVoice v s (fun _ => .next (f s)) = .next t) :
    onVoice v (s.withVelocity x y) (fun _ => .next (f (s.withVelocity x y))) = .next (t.withVelocity x y) := by
  rcases onVoice_next v s t _ h with ⟨hv, hb⟩ | ⟨hv, rfl⟩
  · cases hb
    exact (onVoice_exists v (s.withVelocity x y) _ hv).trans (congrArg _ hf)
  · exact onVoice_missing v (s.withVelocity x y) _ hv

theorem execPEvent_withVelocity {kind : EventKind} {n : BitVec 7} {tail : Bool} {s t : State} (x y : Word)
    (h : execPEvent kind n tail s = .next t) :
    execPEvent kind n tail (s.withVelocity x y) = .next (t.withVelocity x y) := by
  unfold execPEvent at h ⊢
  split at h
  · next hfull =>
    cases h
    exact if_pos hfull
  · next hfree =>
    cases h
    exact if_neg hfree

/-- Settles O60, command by command: none reads `A0` or `A1`, so writing other words there commutes with it. -/
theorem velocityHasNoEffect : Obligations.VelocityHasNoEffect := by
  intro s t v n tail kind x y i hi h
  change exec i (s.withVelocity x y) = .next (t.withVelocity x y)
  simp only [List.mem_cons, List.not_mem_nil, or_false] at hi
  rcases hi with rfl | rfl | rfl | rfl | rfl
  · exact onVoice_withVelocity (f := fun u => startNote u.fp v.toNat n u) rfl h
  · exact onVoice_withVelocity (f := stopNote tail v.toNat) rfl h
  · cases h
    exact congrArg _ (allocNoteOn_withVelocity s.fp n s x y)
  · cases h
    exact congrArg _ (routeNoteOff_withVelocity n tail s x y)
  · exact execPEvent_withVelocity x y h

/-! ## The guards of the commands -/

theorem updVoice_missing (v : BitVec 8) (s : State) (f : Voice → Voice) (h : s.voiceExists v = false) :
    updVoice v s f = raised .badOperand s :=
  onVoice_missing v s _ h

theorem queryVoice_missing (v : BitVec 8) (s : State) (f : Voice → Word) (h : s.voiceExists v = false) :
    queryVoice v s f = raised .badOperand s :=
  onVoice_missing v s _ h

/-- Check 2 of rule R96 comes before everything else a command on a Voice does. -/
theorem exec_missing {i : Instr} {v : BitVec 8} {s : State} (hi : i.voice? = some v) (hv : s.voiceExists v = false) :
    exec i s = raised .badOperand s := by
  unfold exec
  cases i with
  | sysReset | pPrepare | pNoteon _ | pNoteoff _ _ | pRender | pEvent _ _ _ => cases hi
  | oscSetwave _ _ | oscNext _ | envNext _ | fltPrepare _ | fltProcess _ | vPrepare _ | vStart _ _ | vStop _ _
  | vRender _ =>
    cases hi
    exact onVoice_missing v s _ hv
  | envIsactive _ | envGetlevel _ | envGetstage _ | vQuery _ =>
    cases hi
    exact queryVoice_missing v s _ hv
  | _ =>
    cases hi
    exact updVoice_missing v s _ hv

theorem execFltProcess_guards {v : BitVec 8} {s : State} (hv : s.voiceExists v = true) :
    execFltProcess v s =
      if (s.voice v.toNat).flt.prepared = false then raised .notPrepared s
      else if (s.voice v.toNat).flt.maxblock.toNat < s.a0.toNat + s.a1.toNat then raised .range s
      else finish (fltProcess s.fp v.toNat s.a0.toNat s.a1.toNat s) := by
  rw [execFltProcess, onVoice_exists v s _ hv]
  simp [regionTooLong]

theorem execVRender_guards {v : BitVec 8} {s : State} (hv : s.voiceExists v = true) :
    execVRender v s =
      if (s.voice v.toNat).ready = false then raised .notPrepared s
      else if (s.voice v.toNat).flt.maxblock.toNat < s.a0.toNat + s.a1.toNat then raised .range s
      else finish (renderVoice s.fp v.toNat s.a0.toNat s.a1.toNat s) := by
  rw [execVRender, onVoice_exists v s _ hv]
  simp [regionTooLong]

theorem renderVoice_inactive (m : Fp) {v : Nat} (start num : Nat) {s : State} (h : (s.voice v).active = false) :
    renderVoice m v start num s = .ok s := by
  rw [renderVoice, h]
  rfl

/-- Settles O53: a missing Voice by `exec_missing`, the other guards from the commands' equations. -/
theorem guardsCheckInOrder : Obligations.GuardsCheckInOrder := by
  refine ⟨fun i v s hi hv => exec_missing hi (by simpa [State.voiceExists] using hv), fun s v hv => ?_, fun s => ?_⟩
  · simp only [exec, execFltProcess_guards hv, execVRender_guards hv]
    refine ⟨fun hp => ?_, fun hp hlong => ?_, fun hr => ?_, fun hr hlong => ?_, fun hr hfits hfree => ?_⟩
    · simp [hp, raised]
    · simp [hp, hlong, raised]
    · simp [hr, raised]
    · simp [hr, hlong, raised]
    · simp [hr, not_lt.2 hfits, renderVoice_inactive _ _ _ hfree, finish]
  · simp only [exec, execPRender]
    refine ⟨fun hr => ?_, fun hr hlong => ?_⟩
    · simp [hr, raised]
    · simp [hr, hlong, raised]

end Sys2Proof.Machine

/-! ## Classes of data under flushing, and the four operations by class -/

namespace Sys2Proof.Machine

/-- A NaN, an infinity or a zero is not subnormal, so flushing keeps it (rule R126). -/
theorem fFlush_of_isNaN (m : Fp) {x : F32} (h : fIsNaN x = true) : fFlush m x = x := by
  refine fFlush_normal m x ?_
  simp_all [fIsNaN, fIsSubnormal]

theorem fFlush_of_isInf (m : Fp) {x : F32} (h : fIsInf x = true) : fFlush m x = x := by
  refine fFlush_normal m x ?_
  simp_all [fIsInf, fIsSubnormal]

theorem fFlush_of_isZero (m : Fp) {x : F32} (h : fIsZero x = true) : fFlush m x = x := by
  refine fFlush_normal m x ?_
  simp_all [fIsZero, fIsSubnormal]

@[simp] theorem fFlush_isNaN (m : Fp) (x : F32) : fIsNaN (fFlush m x) = fIsNaN x := by
  cases h : fIsNaN x with
  | true => rw [fFlush_of_isNaN m h, h]
  | false => exact fFlush_number m h

@[simp] theorem fFlush_sub (m : Fp) (k : Nat) (x : F32) : fFlush (m.sub k) x = fFlush m x := rfl

theorem fMag_fFlush_le (m : Fp) (x : F32) : fMag (fFlush m x) ≤ fMag x := by
  rcases fFlush_eq_or m x with h | ⟨h, -⟩
  · rw [h]
  · rw [h]
    cases fSign x <;> exact Nat.zero_le _

theorem fIsZero_iff (x : F32) : fIsZero x = true ↔ fMag x = 0 := by
  simp only [fIsZero, fMag, Bool.and_eq_true, decide_eq_true_eq]
  split <;> simp_all

theorem fIsZero_iff_val (x : F32) : fIsZero x = true ↔ fVal x = 0 := by
  rw [fIsZero_iff, fVal]
  split <;> omega

theorem fIsZero_finite {x : F32} (h : fIsZero x = true) : fIsFinite x = true := by
  simp_all [fIsZero, fIsFinite]

theorem fPack_zero_isZero (neg : Bool) : fIsZero (fPack neg 0) = true := by cases neg <;> rfl

theorem fIsInf_not_nan {x : F32} (h : fIsInf x = true) : fIsNaN x = false := by
  simp_all [fIsInf, fIsNaN]

@[simp] theorem fNeg_isInf (x : F32) : fIsInf (fNeg x) = fIsInf x := by
  simp only [fIsInf, fNeg_exp, fNeg_frac]

theorem fNeg_isSubnormal (x : F32) : fIsSubnormal (fNeg x) = fIsSubnormal x := by
  simp only [fIsSubnormal, fNeg_exp, fNeg_frac]

/-! ### A NaN operand (rule R125) -/

theorem faddCore_nan (m : Fp) {a b : F32} (h : fIsNaN a = true ∨ fIsNaN b = true) : faddCore m a b = fNaN m := by
  rw [faddCore, if_pos (by simpa using h)]

theorem fmulCore_nan (m : Fp) {a b : F32} (h : fIsNaN a = true ∨ fIsNaN b = true) : fmulCore m a b = fNaN m := by
  rw [fmulCore, if_pos (by simpa using h)]

theorem fdivCore_nan (m : Fp) {a b : F32} (h : fIsNaN a = true ∨ fIsNaN b = true) : fdivCore m a b = fNaN m := by
  rw [fdivCore, if_pos (by simpa using h)]

/-! ### Finite operands (rule R124) -/

theorem fmulCore_finite (m : Fp) {a b : F32} (ha : fIsFinite a = true) (hb : fIsFinite b = true) :
    fmulCore m a b = fFlush m (roundRat (fSign a != fSign b) (fMag a * fMag b) (2 ^ 149)) := by
  simp [fmulCore, fIsFinite_number ha, fIsFinite_number hb, fIsFinite_not_inf ha, fIsFinite_not_inf hb]

theorem fdivCore_finite (m : Fp) {a b : F32} (ha : fIsFinite a = true) (hb : fIsFinite b = true)
    (hz : fIsZero b = false) :
    fdivCore m a b = fFlush m (roundRat (fSign a != fSign b) (fMag a * 2 ^ 149) (fMag b)) := by
  simp [fdivCore, fIsFinite_number ha, fIsFinite_number hb, fIsFinite_not_inf ha, fIsFinite_not_inf hb, hz]

/-! ### Zeros (rule R127) -/

theorem roundRat_zero (neg : Bool) (den : Nat) : roundRat neg 0 den = fPack neg 0 := by
  simp [roundRat, roundEven]

/-- A finite product with a zero factor is a zero with the sign of a product. -/
theorem fmul_of_isZero (m : Fp) {a b : F32} (ha : fIsFinite a = true) (hb : fIsFinite b = true)
    (hz : fIsZero a = true ∨ fIsZero b = true) : fmul m a b = fPack (fSign a != fSign b) 0 := by
  have hmag : fMag (fFlush m a) * fMag (fFlush m b) = 0 := by
    rcases hz with hz | hz
    · rw [fFlush_of_isZero m hz, (fIsZero_iff a).1 hz, Nat.zero_mul]
    · rw [fFlush_of_isZero m hz, (fIsZero_iff b).1 hz, Nat.mul_zero]
  rw [fmul, fmulCore_finite m (fFlush_finite m ha) (fFlush_finite m hb), hmag, roundRat_zero, fFlush_sign, fFlush_sign]
  exact fFlush_of_isZero m (fPack_zero_isZero _)

/-- The sum of two zeros is a zero, negative only when both are. -/
theorem fadd_of_isZero (m : Fp) {a b : F32} (ha : fIsZero a = true) (hb : fIsZero b = true) :
    fadd m a b = fPack (fSign a && fSign b) 0 := by
  rw [fadd, fFlush_of_isZero m ha, fFlush_of_isZero m hb, faddCore_finite m (fIsZero_finite ha) (fIsZero_finite hb),
    if_pos (by rw [(fIsZero_iff_val a).1 ha, (fIsZero_iff_val b).1 hb, add_zero])]

theorem fNeg_isZero (x : F32) : fIsZero (fNeg x) = fIsZero x := by
  simp only [fIsZero, fNeg_exp, fNeg_frac]

/-- Flushing and the sign change commute, so a difference is a sum with the other sign. -/
theorem fNeg_fFlush (m : Fp) (x : F32) : fNeg (fFlush m x) = fFlush m (fNeg x) := by
  cases hs : fIsSubnormal x with
  | false => rw [fFlush_normal m x hs, fFlush_normal m _ (by rwa [fNeg_isSubnormal])]
  | true =>
    cases hm : m.ftz with
    | false => rw [fFlush_off m x hm, fFlush_off m _ hm]
    | true =>
      simp only [fFlush, hm, hs, fNeg_isSubnormal, fNeg_sign, Bool.and_self, if_true]
      cases fSign x <;> rfl

theorem fsub_eq_fadd_fNeg (m : Fp) (a b : F32) : fsub m a b = fadd m a (fNeg b) := by
  rw [fsub, fadd, fNeg_fFlush]

end Sys2Proof.Machine

/-! ## Rounding to nearest, ties to even -/

namespace Sys2Proof.Machine

/-! ### The significand and the exponent that `roundRat` finds -/

/-- The exponent of the quotient, in units of the last place. -/
def ratExp (num den : Nat) : Nat := Nat.log2 (num / den) - 23

/-- The rounded significand of the quotient. -/
def ratSig (num den : Nat) : Nat :=
  roundEven (num / (den * 2 ^ ratExp num den)) (num % (den * 2 ^ ratExp num den)) (den * 2 ^ ratExp num den)

theorem roundRat_eq (neg : Bool) (num den : Nat) :
    roundRat neg num den = fPack neg (min (ratExp num den * 2 ^ 23 + ratSig num den) 0x7F800000) := rfl

/-- Before rounding, the significand and the exponent are in normal form. -/
theorem ratExp_normalForm (num den : Nat) :
    NormalForm (num / (den * 2 ^ ratExp num den)) (ratExp num den) := by
  rw [← Nat.div_div_eq_div_mul]
  constructor
  · rw [Nat.div_lt_iff_lt_mul (by positivity), ← pow_add]
    exact Nat.lt_of_lt_of_le Nat.lt_log2_self (Nat.pow_le_pow_right (by decide) (by unfold ratExp; omega))
  · intro hp
    rw [Nat.le_div_iff_mul_le (by positivity), ← pow_add,
      show 23 + ratExp num den = Nat.log2 (num / den) by unfold ratExp at *; omega]
    exact Nat.log2_self_le (by rintro h0; simp [ratExp, h0] at hp)

theorem roundEven_ge (m r d : Nat) : m ≤ roundEven m r d := by
  unfold roundEven
  split <;> omega

theorem ratSig_le (num den : Nat) : ratSig num den ≤ 2 ^ 24 :=
  (roundEven_le _ _ _).trans (ratExp_normalForm num den).lt

theorem ratSig_ge {num den : Nat} (h : 0 < ratExp num den) : 2 ^ 23 ≤ ratSig num den :=
  ((ratExp_normalForm num den).le h).trans (roundEven_ge _ _ _)

/-- The magnitude packed from an exponent and a significand in normal form, or from one carry above it. -/
theorem fMag_fPack (neg : Bool) {sig q : Nat} (hlt : sig ≤ 2 ^ 24) (hle : 0 < q → 2 ^ 23 ≤ sig)
    (hb : q * 2 ^ 23 + sig ≤ 0x7F800000) : fMag (fPack neg (q * 2 ^ 23 + sig)) = sig * 2 ^ q := by
  have hn : q * 2 ^ 23 + sig < 2 ^ 31 := by omega
  rw [fMag, fPack_exp _ _ hn, fPack_frac _ _ hn]
  rcases Nat.lt_or_ge sig (2 ^ 23) with hs | hs
  · obtain rfl : q = 0 := by omega
    rw [if_pos (by omega)]
    omega
  · rw [if_neg (by omega)]
    rcases Nat.lt_or_eq_of_le hlt with hc | rfl
    · rw [show (q * 2 ^ 23 + sig) / 2 ^ 23 - 1 = q by omega, show 2 ^ 23 + (q * 2 ^ 23 + sig) % 2 ^ 23 = sig by omega]
    · rw [show (q * 2 ^ 23 + 2 ^ 24) / 2 ^ 23 - 1 = q + 1 by omega,
        show 2 ^ 23 + (q * 2 ^ 23 + 2 ^ 24) % 2 ^ 23 = 2 ^ 23 by omega]
      ring

/-! ### Overflow -/

theorem fIsInf_fPack (neg : Bool) {n : Nat} (h : n ≤ 0x7F800000) :
    fIsInf (fPack neg n) = true ↔ n = 0x7F800000 := by
  rw [fIsInf, fPack_exp _ _ (by omega), fPack_frac _ _ (by omega)]
  simp only [Bool.and_eq_true, decide_eq_true_eq]
  omega

/-- The bits reach those of infinity exactly from the midpoint above the largest finite datum on. -/
theorem ratBits_overflow {num den : Nat} (hden : 0 < den) :
    0x7F800000 ≤ ratExp num den * 2 ^ 23 + ratSig num den ↔ (2 ^ 25 - 1) * 2 ^ 252 * den ≤ num := by
  have hsig := ratSig_le num den
  have hd : 0 < den * 2 ^ ratExp num den := by positivity
  have hlt := (Nat.div_lt_iff_lt_mul hd).1 (ratExp_normalForm num den).lt
  rcases lt_trichotomy (ratExp num den) 253 with hp | hp | hp
  · have := Nat.mul_le_mul_left den (Nat.pow_le_pow_right Nat.two_pos (show ratExp num den ≤ 252 by omega))
    omega
  · /- the exponent of the largest finite data: the significand carries from its midpoint on -/
    rw [hp] at hd hlt
    rw [ratSig, hp]
    have hdiv := Nat.div_add_mod num (den * 2 ^ 253)
    have hmod := Nat.mod_lt num hd
    have hm := (Nat.div_lt_iff_lt_mul hd).2 hlt
    rcases Nat.lt_or_ge (num / (den * 2 ^ 253)) (2 ^ 24 - 1) with hm1 | hm1
    · have := roundEven_le (num / (den * 2 ^ 253)) (num % (den * 2 ^ 253)) (den * 2 ^ 253)
      have := (Nat.div_lt_iff_lt_mul hd).1 hm1
      omega
    · rw [show num / (den * 2 ^ 253) = 2 ^ 24 - 1 by omega] at hdiv ⊢
      unfold roundEven
      split <;> omega
  · have hge := ratSig_ge (num := num) (den := den) (by omega)
    have hle := (Nat.le_div_iff_mul_le hd).1 ((ratExp_normalForm num den).le (by omega))
    have := Nat.mul_le_mul_left den (Nat.pow_le_pow_right Nat.two_pos (show 254 ≤ ratExp num den by omega))
    omega

theorem roundRat_isInf (neg : Bool) {num den : Nat} (hden : 0 < den) :
    fIsInf (roundRat neg num den) = true ↔ (2 ^ 25 - 1) * 2 ^ 252 * den ≤ num := by
  rw [roundRat_eq, fIsInf_fPack _ (Nat.min_le_right _ _), ← ratBits_overflow hden]
  omega

/-- A finite result: its magnitude and its last bit are those of the rounded significand. -/
theorem roundRat_finite {neg : Bool} {num den : Nat} (h : fIsFinite (roundRat neg num den) = true) :
    fMag (roundRat neg num den) = ratSig num den * 2 ^ ratExp num den
    ∧ (roundRat neg num den).toNat % 2 = ratSig num den % 2 := by
  have hi := fIsFinite_not_inf h
  rw [roundRat_eq, ← Bool.not_eq_true, fIsInf_fPack _ (Nat.min_le_right _ _)] at hi
  rw [roundRat_eq, Nat.min_eq_left (by omega)]
  refine ⟨fMag_fPack neg (ratSig_le num den) ratSig_ge (by omega), ?_⟩
  rw [fPack_toNat _ _ (by omega)]
  cases neg <;> simp <;> omega

/-! ### Nearest -/

/-- No datum lies strictly between a number in normal form and the next one above it at the same exponent. -/
theorem fVal_outside_gap {sig q : Nat} (hn : NormalForm sig q) (y : F32) :
    fVal y ≤ sig * 2 ^ q ∨ (sig + 1) * 2 ^ q ≤ fVal y := by
  cases hs : fSign y with
  | true =>
    left
    have : (0 : Int) ≤ sig * 2 ^ q := by positivity
    rw [fVal_of_sign_true hs]
    omega
  | false =>
    obtain ⟨sig', q', hn', hy, -⟩ := exists_normalForm y
    rw [fVal_of_sign_false hs, hy]
    norm_cast
    rcases Nat.lt_or_ge q' q with hq | hq
    · exact .inl (hn'.lt_of_exp_lt hn hq).le
    · /- the magnitude is a multiple of `2 ^ q` -/
      rw [← Nat.sub_add_cancel hq, pow_add, ← mul_assoc]
      exact (Nat.lt_or_ge sig (sig' * 2 ^ (q' - q))).symm.imp (Nat.mul_le_mul_right _) (Nat.mul_le_mul_right _)

theorem fVal_mul_outside_gap {sig q : Nat} (hn : NormalForm sig q) (den : Nat) (y : F32) :
    fVal y * den ≤ sig * (den * 2 ^ q : Nat) ∨ (sig + 1) * (den * 2 ^ q : Nat) ≤ fVal y * den := by
  have hd := Int.natCast_nonneg den
  push_cast
  refine (fVal_outside_gap hn y).imp (fun h => ?_) (fun h => ?_)
  · linarith [Int.mul_le_mul_of_nonneg_right h hd]
  · linarith [Int.mul_le_mul_of_nonneg_right h hd]

/-- Of the numbers outside the gap from `m` to `m + 1` divisors none is nearer to `m * d + r` than the rounded
quotient is, and only on a tie, which goes to the even quotient, is another as near. -/
theorem roundEven_nearest {m r d : Nat} (hr : r < d) {z : Int} (hz : z ≤ m * d ∨ (m + 1) * d ≤ z) :
    |(m * d + r : Int) - roundEven m r d * d| ≤ |(m * d + r : Int) - z|
    ∧ (|(m * d + r : Int) - roundEven m r d * d| = |(m * d + r : Int) - z| → z ≠ roundEven m r d * d →
      roundEven m r d % 2 = 0) := by
  have hstep : ((m + 1 : Nat) : Int) * d = m * d + d := by push_cast; ring
  have hz' : z ≤ m * d ∨ (m * d + d : Int) ≤ z := hz.imp id fun h => by linarith
  unfold roundEven
  split
  · rw [hstep, abs_of_nonpos (by omega)]
    rcases hz' with h | h
    · rw [abs_of_nonneg (by omega)]
      omega
    · rw [abs_of_nonpos (by omega)]
      omega
  · rw [abs_of_nonneg (by omega)]
    rcases hz' with h | h
    · rw [abs_of_nonneg (by omega)]
      omega
    · rw [abs_of_nonpos (by omega)]
      omega

/-- The distance from a quotient to an integer, times the divisor. -/
theorem abs_quotient_sub (num : Nat) {den : Nat} (hden : 0 < den) (v : Int) :
    |(num : ℚ) / den - v| * den = ((|(num : Int) - v * den| : Int) : ℚ) := by
  have hd : (0 : ℚ) < den := by exact_mod_cast hden
  rw [← abs_of_pos hd, ← abs_mul, abs_of_pos hd, sub_mul, div_mul_cancel₀ _ hd.ne']
  push_cast
  rfl

/-- A finite rounded quotient is nearest, in magnitude, and even on a tie (rule R124). -/
theorem roundRat_nearest {neg : Bool} {num den : Nat} (hden : 0 < den) (h : fIsFinite (roundRat neg num den) = true)
    (y : F32) :
    |(num : ℚ) / den - (fMag (roundRat neg num den) : Int)| ≤ |(num : ℚ) / den - fVal y|
    ∧ (|(num : ℚ) / den - (fMag (roundRat neg num den) : Int)| = |(num : ℚ) / den - fVal y| →
      fVal y ≠ fMag (roundRat neg num den) → (roundRat neg num den).toNat % 2 = 0) := by
  obtain ⟨hmag, hbit⟩ := roundRat_finite h
  have hd : (0 : ℚ) < den := by exact_mod_cast hden
  /- the same in integers, with the divisor of the rounded significand -/
  have hr := Nat.mod_lt num (show 0 < den * 2 ^ ratExp num den by positivity)
  have hnum : (num : Int) = (num / (den * 2 ^ ratExp num den) : Nat) * (den * 2 ^ ratExp num den : Nat)
      + (num % (den * 2 ^ ratExp num den) : Nat) := by
    exact_mod_cast (Nat.div_add_mod' num _).symm
  have hnear := roundEven_nearest hr (fVal_mul_outside_gap (ratExp_normalForm num den) den y)
  rw [← hnum, ← ratSig, show (ratSig num den : Int) * (den * 2 ^ ratExp num den : Nat)
    = fMag (roundRat neg num den) * den by rw [hmag]; push_cast; ring] at hnear
  rw [← mul_le_mul_iff_left₀ hd, ← mul_left_inj' hd.ne', abs_quotient_sub num hden,
    abs_quotient_sub num hden, hbit]
  simp only [Int.cast_le, Int.cast_inj]
  exact ⟨hnear.1, fun he hne => hnear.2 he fun hm => hne (Int.eq_of_mul_eq_mul_right (by omega) hm)⟩

/-! ### The specification `RoundsTo` -/

theorem abs_sign_mul (neg : Bool) (x : ℚ) : |(if neg then -1 else 1) * x| = |x| := by
  cases neg <;> simp

/-- `roundRat` rounds to nearest, ties to even, with the sign it is given (rule R124). -/
theorem roundRat_roundsTo (neg : Bool) (num : Nat) {den : Nat} (hden : 0 < den) :
    RoundsTo ((if neg then -1 else 1) * ((num : ℚ) / (den : ℚ))) (roundRat neg num den) := by
  have hd : (0 : ℚ) < den := by exact_mod_cast hden
  have hx : (0 : ℚ) ≤ num / den := by positivity
  refine ⟨roundRat_not_nan _ _ _, fun h => ?_, fun h => ?_, ?_, fun hfin y _ => ?_⟩
  · rw [roundRat_sign]
    cases neg with
    | false => simp [hx.not_gt] at h
    | true => rfl
  · rw [roundRat_sign]
    cases neg with
    | false => rfl
    | true => simp [hx.not_gt] at h
  · rw [roundRat_isInf neg hden, abs_sign_mul, abs_of_nonneg hx, le_div_iff₀ hd, ← Nat.cast_le (α := ℚ)]
    norm_num
  · /- a negative quotient is as far from `y` as its magnitude is from `-y` -/
    cases neg with
    | false =>
      have hr : fVal (roundRat false num den) = fMag (roundRat false num den) :=
        fVal_of_sign_false (roundRat_sign _ _ _)
      rw [hr]
      simpa using roundRat_nearest hden hfin y
    | true =>
      have hr : fVal (roundRat true num den) = -fMag (roundRat true num den) :=
        fVal_of_sign_true (roundRat_sign _ _ _)
      have hflip : ∀ v : Int, |(-1 : ℚ) * (num / den) - v| = |(num : ℚ) / den - (-v : Int)| := by
        intro v
        rw [← abs_neg]
        push_cast
        ring_nf
      have hnear := roundRat_nearest hden hfin (fNeg y)
      rw [fNeg_val] at hnear
      rw [if_pos rfl, hflip, hflip, hr, neg_neg]
      exact ⟨hnear.1, fun he hne => hnear.2 he (by omega)⟩

/-! ### The four operations -/

/-- An integer is its sign times its magnitude over 1, as `faddCore` gives it to `roundRat`. -/
theorem roundsTo_int (t : Int) : RoundsTo (t : ℚ) (roundRat (decide (t < 0)) t.natAbs 1) := by
  have h := roundRat_roundsTo (decide (t < 0)) t.natAbs Nat.one_pos
  rwa [Nat.cast_natAbs, Int.cast_abs, Nat.cast_one, div_one, show
    (if decide (t < 0) then (-1 : ℚ) else 1) * |(t : ℚ)| = t by
      by_cases ht : t < 0
      · simp [ht, abs_of_neg (show (t : ℚ) < 0 by exact_mod_cast ht)]
      · simp [ht, abs_of_nonneg (show (0 : ℚ) ≤ t by exact_mod_cast not_lt.1 ht)]] at h

theorem sign_mul_sign (a b : Bool) :
    (if a != b then (-1 : ℚ) else 1) = (if a then -1 else 1) * (if b then -1 else 1) := by
  cases a <;> cases b <;> simp

theorem div_sign_mul (b : Bool) (x y : ℚ) :
    x / ((if b then -1 else 1) * y) = (if b then -1 else 1) * (x / y) := by
  cases b <;> simp [div_neg]

/-- The value of a datum from its sign and its magnitude. -/
theorem fVal_cast (x : F32) : (fVal x : ℚ) = (if fSign x then -1 else 1) * fMag x := by
  unfold fVal
  split <;> simp

/-- The sum of finite data, exact but for one rounding (rule R124). -/
theorem faddCore_rounds (m : Fp) {a b : F32} (ha : fIsFinite a = true) (hb : fIsFinite b = true)
    (h : fVal a + fVal b ≠ 0) :
    ∃ r, RoundsTo ((fVal a : ℚ) + fVal b) r ∧ faddCore m a b = fFlush m r := by
  refine ⟨_, ?_, by rw [faddCore_finite m ha hb, if_neg h]⟩
  exact_mod_cast roundsTo_int (fVal a + fVal b)

theorem faddCore_cancels (m : Fp) {a b : F32} (ha : fIsFinite a = true) (hb : fIsFinite b = true)
    (h : fVal a + fVal b = 0) : faddCore m a b = fPack (fSign a && fSign b) 0 := by
  rw [faddCore_finite m ha hb, if_pos h]

/-- The product of finite data, exact but for one rounding (rule R124). -/
theorem fmulCore_rounds (m : Fp) {a b : F32} (ha : fIsFinite a = true) (hb : fIsFinite b = true) :
    ∃ r, RoundsTo ((fVal a : ℚ) * fVal b / 2 ^ 149) r ∧ fSign r = (fSign a != fSign b)
      ∧ fmulCore m a b = fFlush m r := by
  refine ⟨_, ?_, roundRat_sign _ _ _, fmulCore_finite m ha hb⟩
  have h := roundRat_roundsTo (fSign a != fSign b) (fMag a * fMag b) (den := 2 ^ 149) (by positivity)
  rw [sign_mul_sign] at h
  convert h using 1
  rw [fVal_cast, fVal_cast]
  push_cast
  ring

/-- The quotient of finite data by one that is not zero, exact but for one rounding (rule R124). -/
theorem fdivCore_rounds (m : Fp) {a b : F32} (ha : fIsFinite a = true) (hb : fIsFinite b = true)
    (hz : fIsZero b = false) :
    ∃ r, RoundsTo ((fVal a : ℚ) * 2 ^ 149 / fVal b) r ∧ fSign r = (fSign a != fSign b)
      ∧ fdivCore m a b = fFlush m r := by
  refine ⟨_, ?_, roundRat_sign _ _ _, fdivCore_finite m ha hb hz⟩
  have hpos : 0 < fMag b := Nat.pos_of_ne_zero fun h0 => by simp [(fIsZero_iff b).2 h0] at hz
  have h := roundRat_roundsTo (fSign a != fSign b) (fMag a * 2 ^ 149) hpos
  rw [sign_mul_sign] at h
  convert h using 1
  rw [fVal_cast, fVal_cast, div_sign_mul]
  push_cast
  ring

/-- Settles O15: `roundRat_roundsTo`, and each operation's exact result as the quotient that it rounds. -/
theorem roundingIsNearestTiesToEven : Obligations.RoundingIsNearestTiesToEven := by
  refine ⟨fun neg num den hden => ⟨roundRat_sign _ _ _, roundRat_roundsTo neg num hden⟩, fun m a b ha hb => ?_⟩
  intro x y
  have hx : fIsFinite x = true := fFlush_finite m ha
  have hy : fIsFinite y = true := fFlush_finite m hb
  have hny : fIsFinite (fNeg y) = true := (fNeg_isFinite y).trans hy
  refine ⟨faddCore_cancels m hx hy, faddCore_rounds m hx hy, fun h => ?_, fun h => ?_, fmulCore_rounds m hx hy,
    fdivCore_rounds m hx hy⟩
  · rw [← fNeg_sign]
    exact faddCore_cancels m hx hny (by rw [fNeg_val, h, add_neg_cancel])
  · have hsub := faddCore_rounds m hx hny (by rwa [fNeg_val, ← sub_eq_add_neg, sub_ne_zero])
    rwa [fNeg_val, Int.cast_neg, ← sub_eq_add_neg] at hsub

end Sys2Proof.Machine

/-! ## The default sine -/

namespace Sys2Proof.Machine

theorem cosHorner_le (r2 : Nat) : ∀ (n acc : Nat), acc ≤ fxOne → cosHorner r2 n acc ≤ fxOne
  | 0, _, h => h
  | n + 1, _, _ => cosHorner_le r2 n _ (Nat.sub_le _ _)

theorem sinHorner_le (r2 : Nat) : ∀ (n acc : Nat), acc ≤ fxOne → sinHorner r2 n acc ≤ fxOne
  | 0, _, h => h
  | n + 1, _, _ => sinHorner_le r2 n _ (Nat.sub_le _ _)

/-- The fixed-point cosine does not pass 1. -/
theorem fxCos_le (r : Nat) : fxCos r ≤ fxOne := cosHorner_le _ _ _ le_rfl

/-- The fixed-point sine does not pass its argument. -/
theorem fxSin_le (r : Nat) : fxSin r ≤ r :=
  Nat.div_le_of_le_mul (by
    rw [Nat.mul_comm fxOne]
    exact Nat.mul_le_mul_left r (sinHorner_le _ _ _ le_rfl))

/-- After argument reduction the rest is at most `π / 4`, which is below 1. -/
theorem reduceArg_rest_le (x : F32) : (reduceArg x).rest ≤ fxOne := by
  have hpi : fxHalfPi ≤ 2 * fxOne := by decide +kernel
  have hpos : 0 < 2 * fxHalfPi := by decide +kernel
  simp only [reduceArg]
  generalize fMag x * 2 ^ (fxBits - 149) = t
  have hdiv := Nat.div_add_mod (2 * t + fxHalfPi) (2 * fxHalfPi)
  have hmod := Nat.mod_lt (2 * t + fxHalfPi) hpos
  rw [Nat.mul_assoc, Nat.mul_comm fxHalfPi] at hdiv
  generalize (2 * t + fxHalfPi) / (2 * fxHalfPi) * fxHalfPi = kh at *
  split <;> omega

/-- A number in `[-1, 1]`. -/
def fSymUnit (x : F32) : Prop := fle fNegOne x = true ∧ fle x fOne = true

theorem neg_fMag_le_fVal (x : F32) : -(fMag x : Int) ≤ fVal x := by
  unfold fVal
  split <;> omega

theorem fSymUnit_of_mag_le {x : F32} (hn : fIsNaN x = false) (h : fMag x ≤ 2 ^ 149) : fSymUnit x := by
  have hneg : fIsNaN fNegOne = false ∧ fVal fNegOne = -2 ^ 149 := by decide +kernel
  have hone : fIsNaN fOne = false := by decide
  rw [fSymUnit, fle_iff, fle_iff, fVal_fOne, hneg.2]
  have hle := fVal_le_fMag x
  have hge := neg_fMag_le_fVal x
  exact ⟨⟨⟨hneg.1, hn⟩, by omega⟩, ⟨hn, hone⟩, by omega⟩

/-- The default `SIN32` of a finite datum lies in `[-1, 1]` (rule R128). -/
theorem sin32_symUnit (m : Fp) {x : F32} (hx : fIsFinite x = true) : fSymUnit (sin32 m x) := by
  have hf := fFlush_finite m hx
  simp only [sin32, fIsFinite_number hf, fIsFinite_not_inf hf, Bool.or_self, Bool.false_eq_true, if_false]
  split
  · next hz =>
    exact fSymUnit_of_mag_le (fIsFinite_number hf) (by rw [(fIsZero_iff _).1 hz]; exact Nat.zero_le _)
  · generalize hmag : (if (reduceArg (fFlush m x)).quadrant % 2 = 0 then _ else _) = mag
    have hle : mag ≤ fMag fOne * 2 ^ (fxBits - 149) := by
      rw [show fMag fOne * 2 ^ (fxBits - 149) = fxOne by decide +kernel, ← hmag]
      split
      · exact (fxSin_le _).trans (reduceArg_rest_le _)
      · exact fxCos_le _
    refine fSymUnit_of_mag_le (fFlush_number m (roundRat_not_nan _ _ _)) ((fMag_fFlush_le m _).trans ?_)
    exact (roundRat_mag_le _ (by positivity) fOne hle).trans_eq (by decide +kernel)

/-- A finite factor up to 1 leaves `2 * PI32` finite. -/
theorem fmul_fTwoPi_finite (m : Fp) {p : F32} (hp : fPhase p) : fIsFinite (fmul m fTwoPi p) = true := by
  obtain ⟨-, h0, h1⟩ := (fPhase_iff p).1 hp
  have hpf := fIsFinite_of_val h0 (by omega)
  have hmag : fMag (fFlush m p) ≤ 2 ^ 149 := by
    refine (fMag_fFlush_le m p).trans ?_
    cases hs : fSign p with
    | true => rw [fVal_of_sign_true hs] at h0; omega
    | false => rw [fVal_of_sign_false hs] at h1; omega
  have htwo : fIsFinite fTwoPi = true ∧ fIsSubnormal fTwoPi = false ∧ fMag fTwoPi < 2 ^ 277 := by decide +kernel
  rw [fmul, fFlush_normal m fTwoPi htwo.2.1, fmulCore_finite m htwo.1 (fFlush_finite m hpf)]
  refine fFlush_finite m (fIsFinite_of_fMag_lt (Nat.lt_of_le_of_lt ?_ htwo.2.2))
  exact roundRat_mag_le _ (by positivity) fTwoPi (Nat.mul_le_mul_left _ hmag)

theorem sin2pi_spec {c : Config} (h : c.numSin = .spec) (m : Fp) (p : F32) :
    sin2pi c m p = sin32 (m.sub 1) (fmul (m.sub 0) fTwoPi p) := by
  rw [sin2pi, h]

theorem sin2pi_zero {c : Config} (h : c.numSin = .spec) (m : Fp) : sin2pi c m fZero = fZero := by
  have hmul : fmul (m.sub 0) fTwoPi fZero = fZero :=
    fmul_of_isZero _ (by decide) (by decide) (.inr (by decide))
  have hz : fIsZero fZero = true ∧ fIsNaN fZero = false ∧ fIsInf fZero = false := by decide
  simp [sin2pi_spec h, hmul, sin32, fFlush_of_isZero (m.sub 1) hz.1, hz]

/-- Settles O18: the fixed-point sine and cosine do not pass 1, so neither do they rounded. -/
theorem defaultSineIsBounded : Obligations.DefaultSineIsBounded := by
  have hbound : ∀ (c : Config) (m : Fp), c.numSin = .spec → ∀ p : F32, fPhase p → fSymUnit (sin2pi c m p) := by
    intro c m hc p hp
    rw [sin2pi_spec hc]
    exact sin32_symUnit _ (fmul_fTwoPi_finite _ hp)
  exact ⟨fun c m hc => ⟨sin2pi_zero hc m, hbound c m hc⟩,
    fun c hc m _ => ⟨sin2pi_zero hc m, fun p h0 h1 => hbound c m hc p ⟨h0, h1⟩⟩⟩

end Sys2Proof.Machine

/-! ## The default note frequencies -/

namespace Sys2Proof.Machine

/-- The default table of rule R129 as a function of the note number. -/
def noteTable (i : Nat) : F32 := notefreqBase (i % 12) + BitVec.ofNat 32 (i / 12 * 2 ^ 23)

theorem notefreq_spec {c : Config} (h : c.numFreq = .spec) (m : Fp) (n : BitVec 7) :
    notefreq c m n = noteTable n.toNat := by
  rw [notefreq, h, noteTable]

theorem noteTable_finitePos : ∀ i < 128, fFinitePos (noteTable i) = true := by decide +kernel

/-- An octave doubles the frequency (rule R133). -/
theorem noteTable_octave : ∀ i < 116, fMag (noteTable (i + 12)) = 2 * fMag (noteTable i) := by decide +kernel

theorem noteTable_semitone : ∀ i < 127, fVal (noteTable i) < fVal (noteTable (i + 1)) := by decide +kernel

/-- The table increases strictly, semitone by semitone. -/
theorem noteTable_strictMono : StrictMonoOn (fun i => fVal (noteTable i)) (Set.Iio 128) :=
  strictMonoOn_of_lt_add_one Set.ordConnected_Iio fun i _ _ h => noteTable_semitone i (Nat.lt_of_succ_lt_succ h)

theorem noteTable_flt {i k : Nat} (h : i < k) (hk : k < 128) : flt (noteTable i) (noteTable k) = true := by
  have number : ∀ j < 128, fIsNaN (noteTable j) = false := fun j hj =>
    fIsFinite_number (fFinitePos_finite_sign (noteTable_finitePos j hj)).1
  exact (flt_iff _ _).2 ⟨⟨number i (h.trans hk), number k hk⟩, noteTable_strictMono (h.trans hk) hk h⟩

/-- The notes A: 440.0 for note 69, and one more in the exponent field per octave. -/
theorem noteTable_a (k : Nat) : noteTable (9 + 12 * k) = BitVec.ofNat 32 (0x415C0000 + k * 2 ^ 23) := by
  rw [noteTable, show (9 + 12 * k) % 12 = 9 by omega, show (9 + 12 * k) / 12 = k by omega, BitVec.ofNat_add]
  rfl

theorem notesOk_of_spec {c : Config} (h : c.numFreq = .spec) : NotesOk c := by
  intro m _
  simp only [notefreq_spec h]
  exact ⟨by decide, fun n => noteTable_finitePos _ n.isLt, fun n k hnk => noteTable_flt hnk k.isLt,
    fun n k _ hn => by rw [hn, noteTable_a]⟩

/-- A started note's increment is the quotient when the frequency and the sample rate are finite and positive
(rules R150, R220). -/
theorem Voice.started_inc (c : Config) (m : Fp) (n : BitVec 7) (ts : BitVec 64) {x : Voice}
    (hf : fFinitePos (notefreq c m n) = true) (hsr : fFinitePos x.osc.sr = true) :
    (x.started c m n ts).osc.inc = fdiv m (notefreq c m n) x.osc.sr := by
  simp [started, oscReset, oscSetFreq, oscRecomputeInc, hf, hsr]

theorem State.Inv.voice_lt {s : State} (h : s.Inv) {v : BitVec 8} (hv : s.voiceExists v = true) :
    v.toNat < s.voices.length := by
  simp only [State.Inv, State.wf, Bool.and_eq_true, decide_eq_true_eq] at h
  simp only [State.voiceExists, decide_eq_true_eq] at hv
  omega

theorem startNote_voice (m : Fp) {v : Nat} (n : BitVec 7) {s : State} (h : v < s.voices.length) :
    (startNote m v n s).voice v = (s.voice v).started s.cfg m n s.pool.tsctr :=
  State.voice_setVoice_same s v _ h

theorem exec_vStart {v : BitVec 8} (n : BitVec 7) {s : State} (hv : s.voiceExists v = true) :
    exec (.vStart v n) s = .next (startNote s.fp v.toNat n s) := by
  rw [exec, execVStart, onVoice_exists v s _ hv]

/-- Settles O19: facts about the table's 128 notes, and the increment of a started Voice. -/
theorem defaultNotefreqIsTempered : Obligations.DefaultNotefreqIsTempered := by
  refine ⟨fun c m hc => ?_, fun c => notesOk_of_spec, fun s v n hs hv hnotes hsr => ?_⟩
  · simp only [notefreq_spec hc]
    refine ⟨by decide, fun n => noteTable_finitePos _ n.isLt, fun n k hnk => noteTable_flt hnk k.isLt, ?_⟩
    intro n k hk
    rw [hk]
    exact noteTable_octave _ (by omega)
  · obtain ⟨-, hpos, -⟩ := hnotes s.fp rfl
    refine ⟨startNote s.fp v.toNat n s, exec_vStart n hv, ?_⟩
    rw [startNote_voice _ _ (hs.voice_lt hv)]
    exact Voice.started_inc _ _ _ _ (hpos n) hsr

end Sys2Proof.Machine

/-! ## The silent filter -/

namespace Sys2Proof.Machine

theorem fmul_isZero (m : Fp) {a b : F32} (ha : fIsFinite a = true) (hb : fIsFinite b = true)
    (hz : fIsZero a = true ∨ fIsZero b = true) : fIsZero (fmul m a b) = true := by
  rw [fmul_of_isZero m ha hb hz]
  exact fPack_zero_isZero _

theorem fadd_isZero (m : Fp) {a b : F32} (ha : fIsZero a = true) (hb : fIsZero b = true) :
    fIsZero (fadd m a b) = true := by
  rw [fadd_of_isZero m ha hb]
  exact fPack_zero_isZero _

theorem fsub_isZero (m : Fp) {a b : F32} (ha : fIsZero a = true) (hb : fIsZero b = true) :
    fIsZero (fsub m a b) = true := by
  rw [fsub_eq_fadd_fNeg]
  exact fadd_isZero m ha (by rwa [fNeg_isZero])

/-- The default step on zeros: every product has a zero factor and every sum is of zeros (rules R132, R133 (g)). -/
theorem specSvfStep_isZero (m : Fp) {k : Coef} {x s1 s2 : F32} (hg : fIsFinite k.g = true) (hh : fIsFinite k.h = true)
    (hsum : fIsFinite (fadd (m.sub 4) k.g k.r2) = true) (hx : fIsZero x = true) (h1 : fIsZero s1 = true)
    (h2 : fIsZero s2 = true) :
    fIsZero (specSvfStep m k x s1 s2).1 = true ∧ fIsZero (specSvfStep m k x s1 s2).2.1 = true
    ∧ fIsZero (specSvfStep m k x s1 s2).2.2 = true := by
  have times : ∀ {m a b}, fIsZero a = true → fIsFinite b = true → fIsZero (fmul m a b) = true :=
    fun ha hb => fmul_isZero _ (fIsZero_finite ha) hb (.inl ha)
  have hhp := fsub_isZero (m.sub 1) (fsub_isZero (m.sub 2) hx (times (m := m.sub 3) h1 hsum)) h2
  have hyHP := fmul_isZero (m.sub 0) hh (fIsZero_finite hhp) (.inr hhp)
  have ht := times (m := m.sub 5) hyHP hg
  have hyBP := fadd_isZero (m.sub 6) ht h1
  have hu := times (m := m.sub 8) hyBP hg
  have hy := fadd_isZero (m.sub 9) hu h2
  exact ⟨hy, fadd_isZero (m.sub 7) ht hyBP, fadd_isZero (m.sub 10) hu hy⟩

theorem svfStep_spec {c : Config} (h : c.numStep = .spec) (m : Fp) (k : Coef) (x s1 s2 : F32) :
    svfStep c m k x s1 s2 = specSvfStep m k x s1 s2 := by
  rw [svfStep, h]

theorem silentOk_of_spec {c : Config} (h : c.numStep = .spec) : SilentOk c := by
  intro m k x s1 s2 _ hg _ hh hsum hx h1 h2
  rw [svfStep_spec h]
  exact specSvfStep_isZero m hg hh (hsum h) hx h1 h2

/-- Settles O20, from `specSvfStep_isZero`; the default sine and note table are admissible by O18 and O19. -/
theorem silentFilterStaysSilent : Obligations.SilentFilterStaysSilent := by
  refine ⟨fun c m k x s1 s2 hc hg _ hh hsum hx h1 h2 => ?_, fun c => silentOk_of_spec,
    fun c hwf hsin hfreq hstep => ?_⟩
  · rw [svfStep_spec hc]
    exact specSvfStep_isZero m hg hh hsum hx h1 h2
  · exact ⟨hwf, defaultSineIsBounded.2 c hsin, notesOk_of_spec hfreq, silentOk_of_spec hstep⟩

end Sys2Proof.Machine

/-! ## Flush to zero -/

namespace Sys2Proof.Machine

/-! ### Results are not subnormal -/

theorem fNaN_not_subnormal (m : Fp) : fIsSubnormal (fNaN m) = false := by
  have h := fNaN_isNaN m
  simp_all [fIsNaN, fIsSubnormal]

theorem fInf_not_subnormal (neg : Bool) : fIsSubnormal (fInf neg) = false := by cases neg <;> decide

section
variable {m : Fp} {a b : F32}

theorem faddCore_not_subnormal (hm : m.ftz = true) (ha : fIsSubnormal a = false) (hb : fIsSubnormal b = false) :
    fIsSubnormal (faddCore m a b) = false := by
  unfold faddCore
  split
  · exact fNaN_not_subnormal m
  split
  · split
    · exact fNaN_not_subnormal m
    · exact ha
  split
  · exact hb
  · simp only
    split
    · exact fPack_zero_not_subnormal _
    · exact fFlush_not_subnormal m _ hm

theorem fmulCore_not_subnormal (hm : m.ftz = true) : fIsSubnormal (fmulCore m a b) = false := by
  simp only [fmulCore]
  split
  · exact fNaN_not_subnormal m
  split
  · split
    · exact fNaN_not_subnormal m
    · exact fInf_not_subnormal _
  · exact fFlush_not_subnormal m _ hm

theorem fdivCore_not_subnormal (hm : m.ftz = true) : fIsSubnormal (fdivCore m a b) = false := by
  simp only [fdivCore]
  split
  · exact fNaN_not_subnormal m
  split
  · split
    · exact fNaN_not_subnormal m
    · exact fInf_not_subnormal _
  split
  · exact fPack_zero_not_subnormal _
  split
  · split
    · exact fNaN_not_subnormal m
    · exact fInf_not_subnormal _
  · exact fFlush_not_subnormal m _ hm

theorem fadd_not_subnormal (hm : m.ftz = true) : fIsSubnormal (fadd m a b) = false :=
  faddCore_not_subnormal hm (fFlush_not_subnormal m a hm) (fFlush_not_subnormal m b hm)

theorem fsub_not_subnormal (hm : m.ftz = true) : fIsSubnormal (fsub m a b) = false := by
  rw [fsub_eq_fadd_fNeg]
  exact fadd_not_subnormal hm

theorem fmul_not_subnormal (hm : m.ftz = true) : fIsSubnormal (fmul m a b) = false := fmulCore_not_subnormal hm

theorem fdiv_not_subnormal (hm : m.ftz = true) : fIsSubnormal (fdiv m a b) = false := fdivCore_not_subnormal hm

end

section
variable (c : Config) {m : Fp} (k : Coef) (n : BitVec 7) (x y z : F32)

theorem sin32_not_subnormal (hm : m.ftz = true) : fIsSubnormal (sin32 m x) = false := by
  simp only [sin32]
  split
  · exact fNaN_not_subnormal m
  split
  · exact fFlush_not_subnormal m _ hm
  · exact fFlush_not_subnormal m _ hm

theorem specTan32_not_subnormal (hm : m.ftz = true) : fIsSubnormal (specTan32 m x) = false := by
  simp only [specTan32]
  split
  · exact fNaN_not_subnormal m
  split
  · exact fFlush_not_subnormal m _ hm
  split
  · exact fFlush_not_subnormal m _ hm
  · exact fFlush_not_subnormal m _ hm

theorem sin2pi_not_subnormal (hm : m.ftz = true) : fIsSubnormal (sin2pi c m x) = false := by
  unfold sin2pi
  split
  · exact sin32_not_subnormal _ hm
  · exact fFlush_not_subnormal m _ hm

theorem noteTable_not_subnormal : ∀ i < 128, fIsSubnormal (noteTable i) = false := by decide +kernel

theorem notefreq_not_subnormal (hm : m.ftz = true) : fIsSubnormal (notefreq c m n) = false := by
  cases h : c.numFreq with
  | spec =>
    rw [notefreq_spec h]
    exact noteTable_not_subnormal _ n.isLt
  | other j =>
    rw [notefreq, h]
    exact fFlush_not_subnormal m _ hm

theorem tan32_not_subnormal (hm : m.ftz = true) : fIsSubnormal (tan32 c m x) = false := by
  unfold tan32
  split
  · exact specTan32_not_subnormal x hm
  · exact fFlush_not_subnormal m _ hm

theorem svfCoef_not_subnormal (hm : m.ftz = true) :
    fIsSubnormal (svfCoef c m x y z).g = false ∧ fIsSubnormal (svfCoef c m x y z).r2 = false
    ∧ fIsSubnormal (svfCoef c m x y z).h = false := by
  unfold svfCoef
  split
  · exact ⟨tan32_not_subnormal c _ hm, fdiv_not_subnormal hm, fdiv_not_subnormal hm⟩
  · exact ⟨fFlush_not_subnormal m _ hm, fFlush_not_subnormal m _ hm, fFlush_not_subnormal m _ hm⟩

theorem svfStep_not_subnormal (hm : m.ftz = true) :
    fIsSubnormal (svfStep c m k x y z).1 = false ∧ fIsSubnormal (svfStep c m k x y z).2.1 = false
    ∧ fIsSubnormal (svfStep c m k x y z).2.2 = false := by
  unfold svfStep
  split
  · exact ⟨fadd_not_subnormal hm, fadd_not_subnormal hm, fadd_not_subnormal hm⟩
  · exact ⟨fFlush_not_subnormal m _ hm, fFlush_not_subnormal m _ hm, fFlush_not_subnormal m _ hm⟩

end

/-! ### Operands count as flushed -/

section
variable (c : Config) (m : Fp) (k : Coef) (x y z : F32)

theorem fadd_fFlush : fadd m (fFlush m x) (fFlush m y) = fadd m x y := by simp only [fadd, fFlush_idem]

theorem fsub_fFlush : fsub m (fFlush m x) (fFlush m y) = fsub m x y := by simp only [fsub, fFlush_idem]

theorem fmul_fFlush : fmul m (fFlush m x) (fFlush m y) = fmul m x y := by simp only [fmul, fFlush_idem]

theorem fdiv_fFlush : fdiv m (fFlush m x) (fFlush m y) = fdiv m x y := by simp only [fdiv, fFlush_idem]

theorem flushCoef_idem : flushCoef m (flushCoef m k) = flushCoef m k := by simp only [flushCoef, fFlush_idem]

theorem sin2pi_fFlush : sin2pi c m (fFlush m x) = sin2pi c m x := by
  simp only [sin2pi, fmul, fFlush_sub, fFlush_idem]

theorem tan32_fFlush : tan32 c m (fFlush m x) = tan32 c m x := by
  simp only [tan32, specTan32, fFlush_idem]

theorem svfCoef_fFlush : svfCoef c m (fFlush m x) (fFlush m y) (fFlush m z) = svfCoef c m x y z := by
  simp only [svfCoef, specSvfCoef, fdiv, fmul, fFlush_sub, fFlush_idem]

theorem svfStep_fFlush :
    svfStep c m (flushCoef m k) (fFlush m x) (fFlush m y) (fFlush m z) = svfStep c m k x y z := by
  unfold svfStep
  split
  · simp only [specSvfStep, flushCoef, fadd, fsub, fmul, fFlush_sub, fFlush_idem]
  · simp only [flushCoef_idem, fFlush_idem]

end

/-- Settles O17: no result is subnormal, operation by operation, and each flushes its operands first. -/
theorem flushToZeroLeavesNoSubnormal : Obligations.FlushToZeroLeavesNoSubnormal := by
  refine ⟨fun m a b hm => ?_, fun c m k n x y z hm => ?_, fun m a => fFlush_off m a⟩
  · exact ⟨fadd_not_subnormal hm, fsub_not_subnormal hm, fmul_not_subnormal hm, fdiv_not_subnormal hm,
      fun ha => by simp [fFlush, hm, ha],
      (fadd_fFlush m a b).symm, (fsub_fFlush m a b).symm, (fmul_fFlush m a b).symm, (fdiv_fFlush m a b).symm⟩
  · obtain ⟨hg, hr2, hh⟩ := svfCoef_not_subnormal c x y z hm
    obtain ⟨hy, hs1, hs2⟩ := svfStep_not_subnormal c k x y z hm
    exact ⟨sin2pi_not_subnormal c x hm, notefreq_not_subnormal c n hm, tan32_not_subnormal c x hm,
      hg, hr2, hh, hy, hs1, hs2,
      (sin2pi_fFlush c m x).symm, (tan32_fFlush c m x).symm, (svfCoef_fFlush c m x y z).symm,
      (svfStep_fFlush c m k x y z).symm⟩

end Sys2Proof.Machine

/-! ## Special cases of the arithmetic -/

namespace Sys2Proof.Machine

/-- A NaN operand gives a NaN (rule R125). -/
theorem arith_nan (m : Fp) {x y : F32} (h : fIsNaN x = true ∨ fIsNaN y = true) :
    fadd m x y = fNaN m ∧ fsub m x y = fNaN m ∧ fmul m x y = fNaN m ∧ fdiv m x y = fNaN m :=
  ⟨faddCore_nan m (by simpa using h), faddCore_nan m (by simpa using h), fmulCore_nan m (by simpa using h),
    fdivCore_nan m (by simpa using h)⟩

/-- A NaN operand makes every comparison false (rule R127). -/
theorem compare_nan {x y : F32} (h : fIsNaN x = true ∨ fIsNaN y = true) :
    flt x y = false ∧ fle x y = false ∧ fge x y = false ∧ feq x y = false := by
  have ho : fOrdered x y = false := by rcases h with h | h <;> simp [fOrdered, h]
  simp [flt, fle, fge, feq, ho]

/-- A finite number that is not zero, divided by zero, is an infinity (rule R127). -/
theorem fdiv_by_zero (m : Fp) {x y : F32} (hx : fIsFinite x = true) (hnz : fIsZero (fFlush m x) = false)
    (hy : fIsZero y = true) : fdiv m x y = fInf (fSign x != fSign y) := by
  have ha := fFlush_finite m hx
  have hb := fIsZero_finite hy
  simp [fdiv, fdivCore, fFlush_of_isZero m hy, hnz, hy, fIsFinite_number ha, fIsFinite_not_inf ha, fIsFinite_number hb,
    fIsFinite_not_inf hb]

theorem fdiv_zero_zero (m : Fp) {x y : F32} (hx : fIsZero x = true) (hy : fIsZero y = true) : fdiv m x y = fNaN m := by
  have ha := fIsZero_finite hx
  have hb := fIsZero_finite hy
  simp [fdiv, fdivCore, fFlush_of_isZero m hx, fFlush_of_isZero m hy, hx, hy, fIsFinite_number ha, fIsFinite_not_inf ha,
    fIsFinite_number hb, fIsFinite_not_inf hb]

theorem fsub_inf_self (m : Fp) {x : F32} (hx : fIsInf x = true) : fsub m x x = fNaN m := by
  simp [fsub, faddCore, fFlush_of_isInf m hx, hx, fIsInf_not_nan hx]

theorem fmul_zero_inf (m : Fp) {x y : F32} (hx : fIsZero x = true) (hy : fIsInf y = true) : fmul m x y = fNaN m := by
  simp [fmul, fmulCore, fFlush_of_isZero m hx, fFlush_of_isInf m hy, hx, hy, fIsFinite_number (fIsZero_finite hx),
    fIsInf_not_nan hy]

/-- A finite number and its opposite sum to `+0.0` (rule R127). -/
theorem fadd_fNeg_self (m : Fp) {x : F32} (hx : fIsFinite x = true) : fadd m x (fNeg x) = fZero := by
  have ha := fFlush_finite m hx
  rw [fadd, ← fNeg_fFlush, faddCore_cancels m ha ((fNeg_isFinite _).trans ha) (by rw [fNeg_val, add_neg_cancel]),
    fNeg_sign, Bool.and_not_self]
  rfl

/-- Settles O16, case by case. -/
theorem floatSpecialCases : Obligations.FloatSpecialCases := by
  refine ⟨fun m x y h => ?_, fun m _ _ => fdiv_by_zero m, fun m x y hx hy => ?_, fun m x hx => ?_,
    fun m x y hx hy => ?_, fun m _ => fadd_fNeg_self m, fun m => ⟨?_, ?_⟩, by decide⟩
  · obtain ⟨hadd, hsub, hmul, hdiv⟩ := arith_nan m h
    rw [hadd, hsub, hmul, hdiv]
    exact ⟨fNaN_isNaN m, fNaN_isNaN m, fNaN_isNaN m, fNaN_isNaN m, compare_nan h⟩
  · rw [fdiv_zero_zero m hx hy, fNaN_isNaN]
  · rw [fsub_inf_self m hx, fNaN_isNaN]
  · rw [fmul_zero_inf m hx hy, fNaN_isNaN]
  · exact fadd_of_isZero m (by decide) (by decide)
  · exact fmul_of_isZero m (by decide) (by decide) (.inr (by decide))

end Sys2Proof.Machine

/-! ## The command cycle -/

namespace Sys2Proof.Machine

/-- The engine's move while `BUSY` is 1: the command that `CMD` spells, and the end of the cycle (rule R120). -/
theorem engineMove_decoded (during : List CtlWrite) {s : State} {i : Instr} (hb : s.busy = true)
    (hi : decode s.cmd = .ok i) : engineMove during s = complete (exec i { s with during := during }) := by
  rw [engineMove, if_pos hb, runCommand, fetchWord, hi]

theorem landSlot_nil (k : Nat) {s : State} (h : s.during = []) : landSlot k s = s := by
  rw [landSlot, h, List.filter_nil, List.foldl_nil]

theorem step_engine {s : State} {during : List CtlWrite} {rest : List Move} (h : s.moves = .engine during :: rest) :
    step s = engineMove during { s with moves := rest } := by
  rw [step, h]

/-- With no move of the outside world the engine completes the command that was issued (rule R120). -/
theorem step_noMove {s : State} (hb : s.busy = true) (h : s.moves = []) : step s = engineMove [] s := by
  rw [step, h]
  exact if_pos hb

/-- With no control-host write left, none lands. -/
theorem landRest_nil {s : State} (h : s.during = []) : landRest s = s := by
  have hslots : eachUp 0 8 landSlot s = s :=
    eachUp_keeps (fun t => t = s) landSlot 8 0 s (fun k t _ _ ht => by rw [ht, landSlot_nil k h]) rfl
  rw [landRest, hslots, h, List.filter_nil, List.foldl_nil]
  cases s
  cases h
  rfl

/-- Settles O6: the engine's move on a decoded word, and the end of the command cycle with nothing left to land. -/
theorem stepRunsDecodedCommand : Obligations.StepRunsDecodedCommand := by
  refine ⟨fun s i hb hi => ⟨fun during rest hm => ?_, fun hm => ?_⟩, fun t ht => ?_⟩
  · rw [step_engine hm]
    exact engineMove_decoded (s := { s with moves := rest }) during hb hi
  · rw [step_noMove hb hm, engineMove_decoded [] hb hi]
  · rw [complete, completeCommand, landRest_nil ht]

end Sys2Proof.Machine

/-! ## Rounding keeps the order -/

namespace Sys2Proof.Machine

theorem roundEven_mono {m r m' r' d : Nat} (h : m < m' ∨ (m = m' ∧ r ≤ r')) : roundEven m r d ≤ roundEven m' r' d := by
  rcases h with h | ⟨rfl, h⟩
  · exact (roundEven_le m r d).trans (h.trans_le (roundEven_ge m' r' d))
  · unfold roundEven
    split_ifs <;> omega

/-- A greater quotient has the greater exponent, or the same exponent and no smaller a significand. -/
theorem ratBits_mono {num num' : Nat} (den : Nat) (h : num ≤ num') :
    ratExp num den * 2 ^ 23 + ratSig num den ≤ ratExp num' den * 2 ^ 23 + ratSig num' den := by
  have hexp : ratExp num den ≤ ratExp num' den :=
    Nat.sub_le_sub_right (by simpa only [Nat.log2_eq_log_two] using Nat.log_mono_right (Nat.div_le_div_right h)) 23
  rcases Nat.eq_or_lt_of_le hexp with he | he
  · rw [ratSig, ratSig, he]
    refine Nat.add_le_add_left (roundEven_mono ?_) _
    rcases Nat.eq_or_lt_of_le (Nat.div_le_div_right (c := den * 2 ^ ratExp num' den) h) with hq | hq
    · have hdm := Nat.div_add_mod num (den * 2 ^ ratExp num' den)
      have hdm' := Nat.div_add_mod num' (den * 2 ^ ratExp num' den)
      rw [hq] at hdm
      exact .inr ⟨hq, by omega⟩
    · exact .inl hq
  · have hsig := ratSig_le num den
    have hsig' := ratSig_ge (num := num') (den := den) (by omega)
    omega

/-- The magnitude a quotient rounds to grows with the quotient, whatever the signs (rule R124). -/
theorem roundRat_mag_mono (neg neg' : Bool) {num num' : Nat} (den : Nat) (h : num ≤ num') :
    fMag (roundRat neg num den) ≤ fMag (roundRat neg' num' den) := by
  have hlt : ∀ n : Nat, min n 0x7F800000 < 2 ^ 31 := fun n => by omega
  refine fMag_le_of_fBits_le ?_
  rw [roundRat_eq, roundRat_eq, fBits_fPack _ _ (hlt _), fBits_fPack _ _ (hlt _)]
  exact min_le_min_right _ (ratBits_mono den h)

/-- Rounding keeps the order of signed quotients by one divisor (rule R124). -/
theorem roundRat_val_mono {neg neg' : Bool} {num num' : Nat} (den : Nat)
    (h : (if neg then -(num : Int) else num) ≤ if neg' then -(num' : Int) else num') :
    fVal (roundRat neg num den) ≤ fVal (roundRat neg' num' den) := by
  cases neg <;> cases neg' <;> simp only [Bool.false_eq_true, if_true, if_false] at h
  case false.true =>
    obtain ⟨rfl, rfl⟩ : num = 0 ∧ num' = 0 := by omega
    simp only [roundRat_zero, fVal_fPack_zero, le_refl]
  case true.false =>
    rw [fVal_of_sign_true (roundRat_sign _ _ _), fVal_of_sign_false (roundRat_sign _ _ _)]
    omega
  case false.false =>
    have := roundRat_mag_mono false false den (Int.ofNat_le.1 h)
    rw [fVal_of_sign_false (roundRat_sign _ _ _), fVal_of_sign_false (roundRat_sign _ _ _)]
    omega
  case true.true =>
    have := roundRat_mag_mono true true den (Int.ofNat_le.1 (neg_le_neg_iff.1 h))
    rw [fVal_of_sign_true (roundRat_sign _ _ _), fVal_of_sign_true (roundRat_sign _ _ _)]
    omega

theorem fMag_lt_iff (x : F32) : fMag x < 2 ^ 23 ↔ fExp x = 0 := by
  have hfrac := fFrac_lt x
  have hpos := Nat.two_pow_pos (fExp x - 1)
  rw [fMag]
  split
  · next he => exact iff_of_true hfrac he
  · next he => exact iff_of_false (by nlinarith) he

/-- Flushing makes zero of the magnitudes below that of the least normal datum (rule R126). -/
theorem fFlush_val (m : Fp) (x : F32) : fVal (fFlush m x) = if m.ftz = true ∧ fMag x < 2 ^ 23 then 0 else fVal x := by
  simp only [fMag_lt_iff]
  cases hm : m.ftz with
  | false => rw [fFlush_off m x hm, if_neg (by simp)]
  | true =>
    by_cases he : fExp x = 0
    · rw [if_pos ⟨rfl, he⟩]
      by_cases hf : fFrac x = 0
      · have hz : fIsZero x = true := by simp [fIsZero, he, hf]
        rw [fFlush_of_isZero m hz, (fIsZero_iff_val x).1 hz]
      · rw [fFlush, hm, if_pos (by simp [fIsSubnormal, he, hf]), fVal_fPack_zero]
    · rw [fFlush_normal m x (by simp [fIsSubnormal, he]), if_neg (by simp [he])]

/-- Flushing keeps the order: what lies between a subnormal and zero is flushed with it. -/
theorem fFlush_mono (m : Fp) {x y : F32} (h : fVal x ≤ fVal y) : fVal (fFlush m x) ≤ fVal (fFlush m y) := by
  rw [fFlush_val, fFlush_val]
  cases m.ftz with
  | false => simpa using h
  | true =>
    simp only [fVal, true_and] at h ⊢
    split_ifs at h ⊢ <;> omega

/-! ### Sums and products -/

/-- The value of a finite sum, an exact zero among them. -/
theorem faddCore_val (m : Fp) {a b : F32} (ha : fIsFinite a = true) (hb : fIsFinite b = true) :
    fVal (faddCore m a b)
      = fVal (fFlush m (roundRat (decide (fVal a + fVal b < 0)) (fVal a + fVal b).natAbs 1)) := by
  rw [faddCore_finite m ha hb]
  split
  · next h => rw [h, Int.natAbs_zero, roundRat_zero, fFlush_of_isZero m (fPack_zero_isZero _), fVal_fPack_zero,
      fVal_fPack_zero]
  · rfl

/-- A finite difference grows with the minuend. -/
theorem fsub_mono (m : Fp) {a b c : F32} (ha : fIsFinite a = true) (hb : fIsFinite b = true) (hc : fIsFinite c = true)
    (h : fVal a ≤ fVal b) : fVal (fsub m a c) ≤ fVal (fsub m b c) := by
  have hc' : fIsFinite (fNeg (fFlush m c)) = true := (fNeg_isFinite _).trans (fFlush_finite m hc)
  have hab := fFlush_mono m h
  rw [fsub, fsub, faddCore_val m (fFlush_finite m ha) hc', faddCore_val m (fFlush_finite m hb) hc']
  refine fFlush_mono m (roundRat_val_mono 1 ?_)
  simp only [decide_eq_true_eq]
  split_ifs <;> omega

/-- The product of two magnitudes with the sign of a product is the product of the values. -/
theorem signed_mag_mul (a b : F32) :
    (if fSign a != fSign b then -((fMag a * fMag b : Nat) : Int) else (fMag a * fMag b : Nat)) = fVal a * fVal b := by
  rw [fVal, fVal]
  cases fSign a <;> cases fSign b <;> simp

/-- A finite product with a factor that is not negative grows with the other factor. -/
theorem fmul_mono (m : Fp) {a b c : F32} (ha : fIsFinite a = true) (hb : fIsFinite b = true) (hc : fIsFinite c = true)
    (hc0 : 0 ≤ fVal c) (h : fVal a ≤ fVal b) : fVal (fmul m c a) ≤ fVal (fmul m c b) := by
  have hcf := fFlush_finite m hc
  rw [fmul, fmul, fmulCore_finite m hcf (fFlush_finite m ha), fmulCore_finite m hcf (fFlush_finite m hb)]
  refine fFlush_mono m (roundRat_val_mono _ ?_)
  rw [signed_mag_mul, signed_mag_mul]
  exact mul_le_mul_of_nonneg_left (fFlush_mono m h) (fFlush_val_nonneg m hc0)

end Sys2Proof.Machine

/-! ## The oscillator's waveforms and commands -/

namespace Sys2Proof.Machine

theorem fPhase_finite {p : F32} (hp : fPhase p) : fIsFinite p = true := by
  obtain ⟨-, h0, h1⟩ := (fPhase_iff p).1 hp
  exact fIsFinite_of_val h0 (by omega)

/-- The largest phase, `1 - 2^-24`, doubles exactly. -/
theorem fmul_fTwo_largest (m : Fp) : fmul m fTwo 0x3F7FFFFF#32 = 0x3FFFFFFF#32 := by
  rw [fmul, fFlush_normal m fTwo (by decide), fFlush_normal m _ (by decide), fmulCore_finite m (by decide) (by decide),
    show roundRat (fSign fTwo != fSign 0x3F7FFFFF#32) (fMag fTwo * fMag 0x3F7FFFFF#32) (2 ^ 149) = 0x3FFFFFFF#32 by
      decide +kernel,
    fFlush_normal m _ (by decide)]

theorem fsub_fZero_fOne (m : Fp) : fsub m fZero fOne = fNegOne := by
  rw [fsub, fFlush_normal m fZero (by decide), fFlush_normal m fOne (by decide),
    faddCore_finite m (by decide) (by decide), if_neg (by decide +kernel),
    show roundRat (decide (fVal fZero + fVal (fNeg fOne) < 0)) (fVal fZero + fVal (fNeg fOne)).natAbs 1 = fNegOne by
      decide +kernel,
    fFlush_normal m _ (by decide)]

/-- Twice a phase lies in `[0, 2)`. -/
theorem fmul_fTwo_phase (m : Fp) {p : F32} (hp : fPhase p) :
    0 ≤ fVal (fmul m fTwo p) ∧ fVal (fmul m fTwo p) ≤ 2 ^ 150 - 2 ^ 126 := by
  obtain ⟨-, h0, h1⟩ := (fPhase_iff p).1 hp
  have htwo : fIsFinite fTwo = true ∧ 0 ≤ fVal fTwo := by decide +kernel
  have hlargest : fIsFinite 0x3F7FFFFF#32 = true ∧ fVal 0x3F7FFFFF#32 = 2 ^ 149 - 2 ^ 125
      ∧ fVal 0x3FFFFFFF#32 = 2 ^ 150 - 2 ^ 126 := by decide +kernel
  constructor
  · have h := fmul_mono m (show fIsFinite fZero = true by decide) (fPhase_finite hp) htwo.1 htwo.2 (by simpa using h0)
    rwa [fmul_of_isZero m htwo.1 (by decide) (.inr (by decide)), fVal_fPack_zero] at h
  · have h := fmul_mono m (fPhase_finite hp) hlargest.1 htwo.1 htwo.2 (by
      rw [hlargest.2.1]
      exact fVal_le_of_lt_one h1)
    rwa [fmul_fTwo_largest, hlargest.2.2] at h

theorem fmul_fTwo_phase_finite (m : Fp) {p : F32} (hp : fPhase p) : fIsFinite (fmul m fTwo p) = true := by
  obtain ⟨h0, h2⟩ := fmul_fTwo_phase m hp
  exact fIsFinite_of_val h0 (by omega)

theorem saw_number (c : Config) (m : Fp) {p : F32} (hp : fPhase p) : fIsNaN (wave c m .saw p) = false :=
  faddCore_number _ (fFlush_finite _ (fmul_fTwo_phase_finite _ hp)) (by
    rw [fNeg_isNaN]
    exact fFlush_number _ (by decide))

/-- Saw does not fall: doubling and subtracting 1 both keep the order. -/
theorem saw_mono (c : Config) (m : Fp) {p q : F32} (hp : fPhase p) (hq : fPhase q) (h : fVal p ≤ fVal q) :
    fVal (wave c m .saw p) ≤ fVal (wave c m .saw q) :=
  fsub_mono _ (fmul_fTwo_phase_finite _ hp) (fmul_fTwo_phase_finite _ hq) (by decide)
    (fmul_mono _ (fPhase_finite hp) (fPhase_finite hq) (by decide) (by decide +kernel) h)

/-- Saw lies between `0 - 1` and a number in `[1, 2)` less 1. -/
theorem saw_bounds (c : Config) (m : Fp) {p : F32} (hp : fPhase p) :
    -2 ^ 149 ≤ fVal (wave c m .saw p) ∧ fVal (wave c m .saw p) < 2 ^ 149 := by
  obtain ⟨h0, h2⟩ := fmul_fTwo_phase (m.sub 2) hp
  have hf := fmul_fTwo_phase_finite (m.sub 2) hp
  constructor
  · have h := fsub_mono (m.sub 1) (show fIsFinite fZero = true by decide) hf (show fIsFinite fOne = true by decide)
      (by simpa using h0)
    rwa [fsub_fZero_fOne, show fVal fNegOne = -2 ^ 149 by decide +kernel] at h
  · have hmax : fIsFinite 0x3FFFFFFF#32 = true ∧ fVal 0x3FFFFFFF#32 = 2 ^ 150 - 2 ^ 126 := by decide +kernel
    have h := fsub_mono (m.sub 1) hf hmax.1 (show fIsFinite fOne = true by decide) (by omega)
    have hphase := fsub_one_phase (m.sub 1) (p := 0x3FFFFFFF#32) (by omega) (by omega)
    exact h.trans_lt ((fPhase_iff _).1 hphase).2.2

/-- Settles O25: Saw by `saw_mono` and `saw_bounds`; Square compares the phase with one half. -/
theorem sawRisesAndSquareHalves : Obligations.SawRisesAndSquareHalves := by
  refine ⟨fun c m p q hp hq h => ?_, fun c m p hp => ?_, fun c m p _ => ⟨fun h => if_pos h, fun h => if_neg ?_⟩⟩
  · have hle := saw_mono c m hp hq ((flt_iff p q).1 h).2.le
    exact (fle_iff _ _).2 ⟨⟨saw_number c m hp, saw_number c m hq⟩, hle⟩
  · obtain ⟨hlo, hhi⟩ := saw_bounds c m hp
    have hn := saw_number c m hp
    have hneg : fVal fNegOne = -2 ^ 149 := by decide +kernel
    exact ⟨(fle_iff _ _).2 ⟨⟨by decide, hn⟩, by omega⟩, (flt_iff _ _).2 ⟨⟨hn, by decide⟩, by rwa [fVal_fOne]⟩⟩
  · rw [flt_iff]
    exact fun hlt => hlt.2.not_ge ((fge_iff p fHalf).1 h).2

/-! ### The commands -/

/-- A Voice that exists is updated: nothing else is written. -/
theorem updVoice_exists {v : BitVec 8} {s : State} (f : Voice → Voice) (h : s.voiceExists v = true) :
    updVoice v s f = .next (s.setVoice v.toNat (f (s.voice v.toNat))) :=
  onVoice_exists v s _ h

theorem exec_oscNext {v : BitVec 8} {s : State} (hv : s.voiceExists v = true) :
    exec (.oscNext v) s
      = .next ((s.setVoice v.toNat { s.voice v.toNat with osc := (oscNext s.cfg s.fp (s.voice v.toNat).osc).2 }).setR0
          (oscNext s.cfg s.fp (s.voice v.toNat).osc).1) := by
  rw [exec, execOscNext, onVoice_exists v s _ hv]

/-- Settles O21: the pair that `oscNext` returns, waveform by waveform. -/
theorem oscNextReadsThenAdvances : Obligations.OscNextReadsThenAdvances := by
  intro s v hv x p p' out
  have hout : out = wave s.cfg (s.fp.sub 0) x.osc.wave x.osc.phase := by
    simp only [out]
    cases x.osc.wave <;> rfl
  rw [exec_oscNext hv, hout]
  rfl

theorem execOscSetwave_some {v : BitVec 8} {wsel : BitVec 2} {w : Waveform} {s : State}
    (hv : s.voiceExists v = true) (hw : waveOfSel wsel = some w) :
    execOscSetwave v wsel s
      = .next (s.setVoice v.toNat { s.voice v.toNat with osc := oscSetWave w (s.voice v.toNat).osc }) := by
  rw [execOscSetwave, onVoice_exists v s _ hv, hw]

theorem execOscSetwave_none {v : BitVec 8} {wsel : BitVec 2} {s : State} (hv : s.voiceExists v = true)
    (hw : waveOfSel wsel = none) : execOscSetwave v wsel s = raised .badOperand s := by
  rw [execOscSetwave, onVoice_exists v s _ hv, hw]

/-- Settles O22, by the waveform that each selector names. -/
theorem oscSetwaveAndReset : Obligations.OscSetwaveAndReset := by
  refine ⟨fun s v wsel w hv hw => ?_, fun s v hv => execOscSetwave_none (wsel := 3#2) hv rfl,
    fun s v hv => updVoice_exists (fun x => { x with osc := oscReset x.osc }) hv⟩
  refine execOscSetwave_some hv ?_
  rcases hw with ⟨rfl, rfl⟩ | ⟨rfl, rfl⟩ | ⟨rfl, rfl⟩ <;> rfl

/-- Settles O23: each setter is an update of the Voice by `oscRecomputeInc`. -/
theorem oscSettersRecomputeIncrement : Obligations.OscSettersRecomputeIncrement := by
  intro s v hv
  exact ⟨updVoice_exists (fun x => { x with osc := oscSetFreq s.fp s.a0 x.osc }) hv,
    updVoice_exists (fun x => { x with osc := oscSetSr s.fp s.a0 x.osc }) hv⟩

end Sys2Proof.Machine

/-! ## The envelope's stages and commands -/

namespace Sys2Proof.Machine

theorem envNext_idle (m : Fp) {e : Env} (h : e.stage = .idle) : envNext m e = e := by rw [envNext, h]

theorem envNext_attack (m : Fp) {e : Env} (h : e.stage = .attack) : envNext m e = envAttack m e := by rw [envNext, h]

theorem envNext_decay (m : Fp) {e : Env} (h : e.stage = .decay) : envNext m e = envDecay m e := by rw [envNext, h]

theorem envNext_sustain (m : Fp) {e : Env} (h : e.stage = .sustain) : envNext m e = e := by rw [envNext, h]

theorem envNext_release (m : Fp) {e : Env} (h : e.stage = .release) : envNext m e = envRelease m e := by rw [envNext, h]

/-! ### A stage of time 0 (rule R180) -/

theorem fUnit_finite {x : F32} (h : fUnit x) : fIsFinite x = true := by
  obtain ⟨-, h0, h1⟩ := (fUnit_iff x).1 h
  exact fIsFinite_of_val h0 (by omega)

/-- The rate of a stage of time 0 is `1 / 0` (rules R127, R170). -/
theorem envRate_fZero (m : Fp) {sr : F32} (hsr : fFinitePos sr = true) : envRate m fZero sr = fInf false := by
  obtain ⟨hf, hs⟩ := fFinitePos_finite_sign hsr
  have hproduct : fmul (m.sub 1) fZero sr = fZero := by
    rw [fmul_of_isZero _ (by decide) hf (.inl (by decide)), hs]
    rfl
  have hone : fIsZero (fFlush (m.sub 0) fOne) = false := by
    rw [fFlush_normal _ _ (by decide)]
    decide
  rw [envRate, hproduct]
  exact fdiv_by_zero _ (by decide) hone (by decide)

/-- A finite datum and an infinity sum to that infinity (rule R125). -/
theorem fadd_fInf (m : Fp) {x : F32} (hx : fIsFinite x = true) (neg : Bool) : fadd m x (fInf neg) = fInf neg := by
  have hinf : fIsInf (fInf neg) = true ∧ fIsNaN (fInf neg) = false := by cases neg <;> decide
  rw [fadd, fFlush_of_isInf m hinf.1]
  exact faddCore_inf m (fFlush_finite m hx) hinf.1 hinf.2

theorem fsub_fInf (m : Fp) {x : F32} (hx : fIsFinite x = true) (neg : Bool) : fsub m x (fInf neg) = fInf (!neg) := by
  have hneg : fNeg (fInf neg) = fInf (!neg) := by cases neg <;> decide
  rw [fsub_eq_fadd_fNeg, hneg, fadd_fInf m hx]

/-- Minus infinity is at or below every level. -/
theorem fle_neg_inf {x : F32} (h : fUnit x) : fle (fInf true) x = true := by
  obtain ⟨hn, h0, -⟩ := (fUnit_iff x).1 h
  have hinf : fIsNaN (fInf true) = false ∧ fVal (fInf true) ≤ 0 := by decide +kernel
  exact (fle_iff _ _).2 ⟨⟨hinf.1, hn⟩, hinf.2.trans h0⟩

section
variable {m : Fp} {e : Env} (hl : fUnit e.level) (hsr : fFinitePos e.sr = true)
include hl hsr

/-- The level of an Attack of time 0 overshoots 1. -/
theorem envAttack_time_zero (ha : e.a = fZero) :
    envAttack m e = if feq e.d fZero then { e with level := e.s, stage := .sustain }
      else { e with level := fOne, stage := .decay } := by
  have hpeak : fge (fadd (m.sub 2) e.level (envRate m e.a e.sr)) fOne = true := by
    rw [ha, envRate_fZero m hsr, fadd_fInf _ (fUnit_finite hl)]
    decide +kernel
  exact if_pos hpeak

/-- A level less the rate of a stage of time 0 is at or below every level. -/
theorem fsub_rate_time_zero {t bound : F32} (ht : t = fZero) (hb : fUnit bound) :
    fle (fsub (m.sub 2) e.level (envRate m t e.sr)) bound = true := by
  rw [ht, envRate_fZero m hsr, fsub_fInf _ (fUnit_finite hl)]
  exact fle_neg_inf hb

theorem envDecay_time_zero (hd : e.d = fZero) (hs : fUnit e.s) :
    envDecay m e = { e with level := e.s, stage := .sustain } :=
  if_pos (fsub_rate_time_zero hl hsr hd hs)

theorem envRelease_time_zero (hr : e.r = fZero) : envRelease m e = { e with level := fZero, stage := .idle } :=
  if_pos (fsub_rate_time_zero hl hsr hr fUnit_fZero)

end

/-- Settles O30, stage by stage: the rate of a stage of time 0 is infinite, so one sample passes the stage's bound. -/
theorem zeroTimeStagesCompleteAtOnce : Obligations.ZeroTimeStagesCompleteAtOnce := by
  intro m e hl hsr
  refine ⟨fun hst ha hd => ?_, fun hst ha hd => ?_, fun hst hd hs => ?_, fun hst hr => ?_⟩
  · rw [envNext_attack m hst, envAttack_time_zero hl hsr ha, if_pos hd]
  · rw [envNext_attack m hst, envAttack_time_zero hl hsr ha, if_neg (by simp [hd])]
  · rw [envNext_decay m hst, envDecay_time_zero hl hsr hd hs]
  · rw [envNext_release m hst, envRelease_time_zero hl hsr hr]

/-! ### The commands -/

theorem exec_envNext {v : BitVec 8} {s : State} (hv : s.voiceExists v = true) :
    exec (.envNext v) s
      = .next ((s.setVoice v.toNat { s.voice v.toNat with env := envNext s.fp (s.voice v.toNat).env }).setR0
          (envNext s.fp (s.voice v.toNat).env).level) := by
  rw [exec, execEnvNext, onVoice_exists v s _ hv]

/-- Settles O26: the envelope that `envNext` returns, stage by stage. -/
theorem envNextFollowsStages : Obligations.EnvNextFollowsStages := by
  intro s v hv x e rate up down out e'
  have he : e' = envNext s.fp e := by
    simp only [e']
    split
    · next h => exact (envNext_idle s.fp h).symm
    · next h => exact (envNext_attack s.fp h).symm
    · next h => exact (envNext_decay s.fp h).symm
    · next h => exact (envNext_sustain s.fp h).symm
    · next h => exact (envNext_release s.fp h).symm
  rw [exec_envNext hv, he]
  rfl

theorem envNoteOff_idle {e : Env} (h : e.stage = .idle) : envNoteOff e = e := if_pos h

theorem envNoteOff_sounding {e : Env} (h : e.stage ≠ .idle) : envNoteOff e = { e with stage := .release } := if_neg h

theorem exec_envNoteoff {v : BitVec 8} {s : State} (hv : s.voiceExists v = true) :
    exec (.envNoteoff v) s
      = .next (s.setVoice v.toNat { s.voice v.toNat with env := envNoteOff (s.voice v.toNat).env }) :=
  updVoice_exists (fun x => { x with env := envNoteOff x.env }) hv

/-- Settles O27: each command is an update of the Voice by its micro-operation; `EnvNoteOff` by its two cases. -/
theorem envNotesAndSetters : Obligations.EnvNotesAndSetters := by
  intro s v hv
  refine ⟨updVoice_exists (fun x => { x with env := envNoteOn x.env }) hv, fun hst => ?_, fun hst => ?_,
    updVoice_exists (fun x => { x with env := envSetParams s.a0 s.a1 s.a2 s.a3 x.env }) hv,
    updVoice_exists (fun x => { x with env := envSetSr s.a0 x.env }) hv⟩
  · rw [exec_envNoteoff hv, envNoteOff_sounding hst]
    rfl
  · rw [exec_envNoteoff hv, envNoteOff_idle hst]
    rfl

theorem boolWord_envIsActive (e : Env) : boolWord (envIsActive e) = if e.stage = .idle then 0#32 else 1#32 := by
  rw [envIsActive, boolWord]
  cases e.stage <;> rfl

/-- Settles O28: each command is a query of the Voice; the words it may return, stage by stage. -/
theorem envQueriesReturnState : Obligations.EnvQueriesReturnState := by
  intro s v hv e
  refine ⟨?_, queryVoice_exists (fun x => x.env.level) hv, ?_⟩
  · rw [← boolWord_envIsActive]
    exact queryVoice_exists (fun x => boolWord (envIsActive x.env)) hv
  · refine (queryVoice_exists (fun x => BitVec.ofNat 32 x.env.stage.code) hv).trans ?_
    show Host.Outcome.next (s.setR0 (BitVec.ofNat 32 e.stage.code)) = _
    cases e.stage <;> rfl

end Sys2Proof.Machine


/-! ## The filter: preparing, setting and running it -/

namespace Sys2Proof.Machine

/-! ### The commands that set the filter -/

theorem exec_fltPrepare {v : BitVec 8} {s : State} (hv : s.voiceExists v = true) :
    exec (.fltPrepare v) s =
      if prepareArgsOk s.cfg s.a0 s.a1 s.a2 then
        .next (s.setVoice v.toNat { s.voice v.toNat with
          flt := fltPrepare s.cfg s.a0 s.a1 s.a2 (s.voice v.toNat).flt })
      else raised .badOperand s := by
  rw [exec, execFltPrepare, onVoice_exists v s _ hv]

/-- Settles O31: the two outcomes of `PrepareArgsOk`. -/
theorem fltPrepareChecksAndStores : Obligations.FltPrepareChecksAndStores := by
  intro s v hv x ok
  have hok : ok = prepareArgsOk s.cfg s.a0 s.a1 s.a2 := rfl
  rw [exec_fltPrepare hv, hok]
  exact ⟨fun h => if_pos h, fun h => if_neg (by simp [h])⟩

/-- Settles O32: each command is an update of the Voice by its micro-operation. -/
theorem fltResetAndSetters : Obligations.FltResetAndSetters := by
  intro s v hv
  exact ⟨updVoice_exists (fun x => { x with flt := fltReset s.cfg x.flt }) hv,
    updVoice_exists (fun x => { x with flt := fltSetCutoff s.a0 x.flt }) hv,
    updVoice_exists (fun x => { x with flt := fltSetRes s.a0 x.flt }) hv⟩

/-! ### A loop that counts its passes -/

/-- If pass `i` succeeds from every state that stands at `i`, and leads to one that stands at `i + 1`, the loop succeeds
and stands at its end. -/
theorem forUp_counts {σ : Type} (P : Nat → σ → Prop) (f : Nat → σ → Except Fault σ) (start n : Nat) (s : σ)
    (hf : ∀ i u, i < n → P i u → ∃ u', f (start + i) u = .ok u' ∧ P (i + 1) u') (hs : P 0 s) :
    ∃ t, forUp start n f s = .ok t ∧ P n t := by
  induction n with
  | zero => exact ⟨s, rfl, hs⟩
  | succ n ih =>
    obtain ⟨u, hu, hP⟩ := ih fun i u hi => hf i u (by omega)
    obtain ⟨t, ht, hPt⟩ := hf n u (by omega) hP
    exact ⟨t, by rw [forUp_add, hu]; simp [forUp, ht], hPt⟩

/-! ### The integrator states of a channel -/

/-- The two integrator states of channel `ch` (rule R35). -/
def Flt.pair (f : Flt) (ch : Nat) : F32 × F32 := (f.s1.getD ch fZero, f.s2.getD ch fZero)

/-- The filter with the integrator states of channel `ch` replaced. -/
def Flt.setPair (f : Flt) (ch : Nat) (p : F32 × F32) : Flt := { f with s1 := f.s1.set ch p.1, s2 := f.s2.set ch p.2 }

/-- The filter holds a pair of integrator states for each of `n` channels (rule R35). -/
def Flt.HasPairs (f : Flt) (n : Nat) : Prop := f.s1.length = n ∧ f.s2.length = n

theorem Flt.pair_setPair_same {f : Flt} {n ch : Nat} (hf : f.HasPairs n) (hch : ch < n) (p : F32 × F32) :
    (f.setPair ch p).pair ch = p := by
  obtain ⟨h1, h2⟩ := hf
  simp [pair, setPair, List.getD_eq_getElem?_getD, h1, h2, hch]

theorem Flt.pair_setPair_other (f : Flt) {ch c : Nat} (hc : c ≠ ch) (p : F32 × F32) :
    (f.setPair ch p).pair c = f.pair c := by
  simp [pair, setPair, List.getD_eq_getElem?_getD, List.getElem?_set_ne (Ne.symm hc)]

theorem Flt.hasPairs_setPair {f : Flt} {n : Nat} (h : f.HasPairs n) (ch : Nat) (p : F32 × F32) :
    (f.setPair ch p).HasPairs n := by
  simpa [HasPairs, setPair] using h

theorem State.Inv.hasPairs {s : State} (h : s.Inv) (v : Nat) : (s.voice v).flt.HasPairs s.cfg.capChan := by
  have hw := h.voice_wf v
  simp only [Voice.wf, Flt.wf, Bool.and_eq_true, decide_eq_true_eq] at hw
  obtain ⟨⟨⟨⟨⟨hpairs, -⟩, -⟩, -⟩, -⟩, -⟩ := hw
  exact hpairs

/-! ### Filtering a region -/

/-- Integrator states of channel `c` after `n` samples of `x c`, from those that Voice `v` has in `s`. -/
def State.fltStates (s : State) (m : Fp) (coef : Coef) (v start : Nat) (x : Nat → Nat → F32) (c n : Nat) :
    F32 × F32 :=
  svfStates s.cfg (m.sub c) coef start (x c) ((s.voice v).flt.pair c).1 ((s.voice v).flt.pair c).2 n

/-- Output `n` of channel `c` for the samples `x c`, from the integrator states that Voice `v` has in `s`. -/
def State.fltOutput (s : State) (m : Fp) (coef : Coef) (v start : Nat) (x : Nat → Nat → F32) (c n : Nat) : F32 :=
  svfOutput s.cfg (m.sub c) coef start (x c) ((s.voice v).flt.pair c).1 ((s.voice v).flt.pair c).2 n

/-- `FltProcess` in progress: from `s` to `t`, channel `c` of Voice `v` has filtered its first `done c` samples of `x c`
in place, from index `start`, and nothing else has changed (rule R204). -/
structure Filtered (m : Fp) (coef : Coef) (v start : Nat) (x : Nat → Nat → F32) (s : State) (done : Nat → Nat)
    (t : State) : Prop where
  frame   : VoiceFrame v s t
  voice   : ∃ a b, t.voice v = { s.voice v with flt := { (s.voice v).flt with s1 := a, s2 := b } }
  pairs   : (t.voice v).flt.HasPairs s.cfg.capChan
  states  : ∀ c, (t.voice v).flt.pair c = s.fltStates m coef v start x c (done c)
  inside  : ∀ c k, k < done c → sampleExists s.cfg c (start + k) = true
  out     : ∀ c k, k < done c →
              (t.mem .scr).read (sampleAddr s.cfg c (start + k)) = some (s.fltOutput m coef v start x c k)
  outside : ∀ a, (∀ c k, k < done c → a ≠ sampleAddr s.cfg c (start + k)) →
              (t.mem .scr).read a = (s.mem .scr).read a
  dest    : SameMem .dest s t

section
variable {m : Fp} {coef : Coef} {v start : Nat} {x : Nat → Nat → F32} {s t : State} {done : Nat → Nat}

theorem Filtered.cfg (h : Filtered m coef v start x s done t) : t.cfg = s.cfg := by
  obtain ⟨-, -, -, hcfg, -⟩ := h.frame.host
  exact hcfg

theorem Filtered.voices_length (h : Filtered m coef v start x s done t) : t.voices.length = s.voices.length := by
  obtain ⟨hlength, -⟩ := h.frame.others
  exact hlength

theorem Filtered.refl (hp : (s.voice v).flt.HasPairs s.cfg.capChan) :
    Filtered m coef v start x s (fun _ => 0) s where
  frame := VoiceFrame.refl v s
  voice := ⟨_, _, rfl⟩
  pairs := hp
  states _ := rfl
  inside _ _ hk := absurd hk (Nat.not_lt_zero _)
  out _ _ hk := absurd hk (Nat.not_lt_zero _)
  outside _ _ := rfl
  dest _ := rfl

/-- The next sample of a channel is still as it was in `s`. -/
theorem Filtered.read_next (h : Filtered m coef v start x s done t) {ch : Nat}
    (he : sampleExists s.cfg ch (start + done ch) = true) :
    (t.mem .scr).read (sampleAddr s.cfg ch (start + done ch))
      = (s.mem .scr).read (sampleAddr s.cfg ch (start + done ch)) := by
  refine h.outside _ fun c k hk haddr => ?_
  obtain ⟨rfl, hi⟩ := sampleAddr_inj (h.inside c k hk) he haddr
  omega

end

/-- `y` in place of sample `i` of channel `ch` in `SCR`, and `p` the channel's integrator states in Voice `v`. -/
def State.putSample (s : State) (v ch i : Nat) (y : F32) (p : F32 × F32) : State :=
  (s.setMem .scr ((s.mem .scr).write (sampleAddr s.cfg ch i) y)).setVoice v
    { s.voice v with flt := (s.voice v).flt.setPair ch p }

section
variable (v ch i : Nat) (y : F32) (p : F32 × F32) (s : State)

theorem putSample_frame : VoiceFrame v s (s.putSample v ch i y p) :=
  (setMem_frame v s .scr _).trans (setVoice_frame v _ _)

theorem putSample_voice (hv : v < s.voices.length) :
    (s.putSample v ch i y p).voice v = { s.voice v with flt := (s.voice v).flt.setPair ch p } :=
  State.voice_setVoice_same _ _ _ (by simpa using hv)

theorem putSample_read_same : ((s.putSample v ch i y p).mem .scr).read (sampleAddr s.cfg ch i) = some y := by
  simp [State.putSample]

theorem putSample_read_other {a : Nat} (ha : a ≠ sampleAddr s.cfg ch i) :
    ((s.putSample v ch i y p).mem .scr).read a = (s.mem .scr).read a := by
  simp [State.putSample, Memory.read_write_other _ _ _ _ ha]

theorem putSample_dest : SameMem .dest s (s.putSample v ch i y p) := fun _ => rfl

end

/-- `FltProcess` on one element (rule R204): `SVF_STEP` of its word and its channel's states. -/
theorem fltElement_ok (v ch i : Nat) {m : Fp} {k : Coef} {x : F32} {s : State} (h : memRead .scr ch i s = .ok x) :
    fltElement m k v ch i s = .ok (s.putSample v ch i
      (svfStep s.cfg m k x ((s.voice v).flt.pair ch).1 ((s.voice v).flt.pair ch).2).1
      (svfStep s.cfg m k x ((s.voice v).flt.pair ch).1 ((s.voice v).flt.pair ch).2).2) := by
  obtain ⟨hexists, -⟩ := (memRead_ok_iff _ _ _ _ _).1 h
  exact (fltElement_ok_iff _ _ _ _ _ _ _).2
    ⟨x, _, h, (memWrite_ok_iff _ _ _ _ _ _).2 ⟨hexists, rfl⟩, rfl⟩

section
variable {m : Fp} {coef : Coef} {v start : Nat} {x : Nat → Nat → F32} {s t : State} {done : Nat → Nat}

theorem lt_update_succ {c ch k : Nat} (hk : k < Function.update done ch (done ch + 1) c) :
    (c = ch ∧ k = done ch) ∨ k < done c := by
  by_cases hc : c = ch
  · subst hc
    rw [Function.update_self] at hk
    omega
  · rw [Function.update_of_ne hc] at hk
    exact .inr hk

theorem lt_update_succ_of_lt {c ch k : Nat} (hk : k < done c) : k < Function.update done ch (done ch + 1) c := by
  by_cases hc : c = ch
  · subst hc
    rw [Function.update_self]
    omega
  · rwa [Function.update_of_ne hc]

/-- One more sample of a channel. -/
theorem Filtered.putSample (h : Filtered m coef v start x s done t) (hv : v < s.voices.length) {ch : Nat}
    (he : sampleExists s.cfg ch (start + done ch) = true) :
    Filtered m coef v start x s (Function.update done ch (done ch + 1))
      (t.putSample v ch (start + done ch) (s.fltOutput m coef v start x ch (done ch))
        (s.fltStates m coef v start x ch (done ch + 1))) := by
  have hch : ch < s.cfg.capChan := by
    simp only [sampleExists, Bool.and_eq_true, decide_eq_true_eq] at he
    exact he.1
  have hvoice := putSample_voice v ch (start + done ch) (s.fltOutput m coef v start x ch (done ch))
    (s.fltStates m coef v start x ch (done ch + 1)) t (by rwa [h.voices_length])
  constructor
  case frame => exact h.frame.trans (putSample_frame _ _ _ _ _ _)
  case voice =>
    obtain ⟨a, b, hab⟩ := h.voice
    exact ⟨_, _, by rw [hvoice, hab]; rfl⟩
  case pairs =>
    rw [hvoice]
    exact Flt.hasPairs_setPair h.pairs ch _
  case states =>
    intro c
    rw [hvoice]
    by_cases hc : c = ch
    · subst hc
      rw [Function.update_self]
      exact Flt.pair_setPair_same h.pairs hch _
    · rw [Function.update_of_ne hc, ← h.states c]
      exact Flt.pair_setPair_other _ hc _
  case inside =>
    intro c k hk
    rcases lt_update_succ hk with ⟨rfl, rfl⟩ | hk
    · exact he
    · exact h.inside c k hk
  case out =>
    intro c k hk
    rcases lt_update_succ hk with ⟨rfl, rfl⟩ | hk
    · rw [← h.cfg]
      exact putSample_read_same _ _ _ _ _ _
    · have hne : sampleAddr s.cfg c (start + k) ≠ sampleAddr t.cfg ch (start + done ch) := by
        rw [h.cfg]
        intro haddr
        obtain ⟨rfl, hi⟩ := sampleAddr_inj he (h.inside c k hk) haddr
        omega
      rw [putSample_read_other _ _ _ _ _ _ hne, h.out c k hk]
  case outside =>
    intro a ha
    have hne : a ≠ sampleAddr t.cfg ch (start + done ch) := by
      rw [h.cfg]
      exact ha ch (done ch) (by simp)
    rw [putSample_read_other _ _ _ _ _ _ hne, h.outside a fun c k hk => ha c k (lt_update_succ_of_lt hk)]
  case dest => exact fun a => (putSample_dest _ _ _ _ _ _ a).trans (h.dest a)

/-- One element of `FltProcess`: its channel has filtered one more sample. -/
theorem Filtered.element (h : Filtered m coef v start x s done t) (hv : v < s.voices.length) {ch : Nat}
    (he : sampleExists s.cfg ch (start + done ch) = true)
    (hx : (s.mem .scr).read (sampleAddr s.cfg ch (start + done ch)) = some (x ch (done ch))) :
    ∃ u, fltElement ((m.sub ch).sub (start + done ch)) coef v ch (start + done ch) t = .ok u
      ∧ Filtered m coef v start x s (Function.update done ch (done ch + 1)) u := by
  have hread : memRead .scr ch (start + done ch) t = .ok (x ch (done ch)) := by
    rw [memRead_ok_iff, h.cfg, h.read_next he]
    exact ⟨he, hx⟩
  refine ⟨_, fltElement_ok v ch _ hread, ?_⟩
  rw [h.states ch, h.cfg]
  exact h.putSample hv he

end

/-- How many samples of channel `c` are filtered when `FltProcess` has done `ch` channels of `num` samples and `n`
samples of the next. -/
def samplesDone (num ch n c : Nat) : Nat := if c < ch then num else if c = ch then n else 0

@[simp] theorem samplesDone_self (num ch n : Nat) : samplesDone num ch n ch = n := by simp [samplesDone]

theorem samplesDone_zero (num : Nat) : samplesDone num 0 0 = fun _ => 0 := by
  funext c
  simp [samplesDone]

theorem update_samplesDone (num ch n : Nat) :
    Function.update (samplesDone num ch n) ch (n + 1) = samplesDone num ch (n + 1) := by
  funext c
  by_cases hc : c = ch
  · simp [hc]
  · simp [samplesDone, hc]

theorem samplesDone_next (num ch : Nat) : samplesDone num ch num = samplesDone num (ch + 1) 0 := by
  funext c
  simp only [samplesDone]
  split_ifs <;> omega

theorem samplesDone_of_lt {num nc c : Nat} (hc : c < nc) : samplesDone num nc 0 c = num := if_pos hc

theorem samplesDone_of_le {num nc c : Nat} (hc : nc ≤ c) : samplesDone num nc 0 c = 0 := by
  simp [samplesDone, hc.not_gt]

theorem lt_samplesDone {num nc c k : Nat} (hk : k < samplesDone num nc 0 c) : c < nc ∧ k < num := by
  by_cases hc : c < nc
  · exact ⟨hc, by rwa [samplesDone_of_lt hc] at hk⟩
  · rw [samplesDone_of_le (not_lt.1 hc)] at hk
    omega

/-- `FltProcess` on a region that lies in the memory and holds the samples `x` (rules R204, R205). -/
theorem fltProcess_filters (m : Fp) {v start num : Nat} {x : Nat → Nat → F32} {s : State} (hv : v < s.voices.length)
    (hp : (s.voice v).flt.HasPairs s.cfg.capChan)
    (hfits : RegionFits s.cfg (s.voice v).flt.nchan.toNat start num)
    (hx : ∀ c k, c < (s.voice v).flt.nchan.toNat → k < num →
      (s.mem .scr).read (sampleAddr s.cfg c (start + k)) = some (x c k)) :
    ∃ t, fltProcess m v start num s = .ok t
      ∧ Filtered (m.sub 1)
          (svfCoef s.cfg (m.sub 0) (s.voice v).flt.cutoff (s.voice v).flt.q (s.voice v).flt.sr)
          v start x s (samplesDone num (s.voice v).flt.nchan.toNat 0) t := by
  refine forUp_counts (fun ch => Filtered (m.sub 1) _ v start x s (samplesDone num ch 0)) _ 0 _ s
    (fun ch t hch ht => ?_) ?_
  · rw [Nat.zero_add, ← samplesDone_next]
    refine forUp_counts (fun n => Filtered (m.sub 1) _ v start x s (samplesDone num ch n)) _ start num t
      (fun n u hn hu => ?_) ht
    have he := hfits.sampleExists hch (show start + n < start + num by omega)
    simpa [update_samplesDone] using hu.element hv (ch := ch) (by simpa using he) (by simpa using hx ch n hch hn)
  · rw [samplesDone_zero]
    exact .refl hp

theorem State.regionWritten_iff (s : State) (sp : Space) (nc start num : Nat) :
    s.regionWritten sp nc start num = true ↔
      ∀ c k, c < nc → k < num → ∃ w, (s.mem sp).read (sampleAddr s.cfg c (start + k)) = some w := by
  simp only [State.regionWritten, List.all_eq_true, List.mem_range, Option.isSome_iff_exists]
  exact ⟨fun h c k hc hk => h c hc k hk, fun h c hc k hk => h c k hc hk⟩

/-- Sequences that follow `SVF_STEP` from a channel's states are its states and its outputs (rule R132). -/
theorem svf_of_recurrence {c : Config} {m : Fp} {coef : Coef} {start num : Nat} {x y a b : Nat → F32}
    (h : ∀ k, k < num → svfStep c (m.sub (start + k)) coef (x k) (a k) (b k) = (y k, a (k + 1), b (k + 1))) :
    (∀ k, k ≤ num → svfStates c m coef start x (a 0) (b 0) k = (a k, b k))
    ∧ ∀ k, k < num → svfOutput c m coef start x (a 0) (b 0) k = y k := by
  have hstates : ∀ k, k ≤ num → svfStates c m coef start x (a 0) (b 0) k = (a k, b k) := by
    intro k hk
    induction k with
    | zero => rfl
    | succ k ih => rw [svfStates_succ, ih (by omega), h k hk]
  refine ⟨hstates, fun k hk => ?_⟩
  simp only [svfOutput]
  rw [hstates k hk.le, h k hk]

theorem exec_fltProcess {v : BitVec 8} {s t : State} (hv : s.voiceExists v = true)
    (hp : (s.voice v.toNat).flt.prepared = true)
    (hfits : s.a0.toNat + s.a1.toNat ≤ (s.voice v.toNat).flt.maxblock.toNat)
    (h : fltProcess s.fp v.toNat s.a0.toNat s.a1.toNat s = .ok t) : exec (.fltProcess v) s = .next t := by
  rw [exec, execFltProcess_guards hv, if_neg (by simp [hp]), if_neg hfits.not_gt, h]
  rfl

/-- Settles O33: the loops of `FltProcess` by `fltProcess_filters`; `svfStates` and `svfOutput` are what every sequence
that follows `SVF_STEP` must be. -/
theorem fltProcessRunsRecurrence : Obligations.FltProcessRunsRecurrence := by
  intro s v hs hv x f start num nc coef hp hlen hw
  obtain ⟨hmax, hchan⟩ := Voice.wf_sizes (hs.voice_wf v.toNat)
  choose! w hword using (s.regionWritten_iff .scr nc start num).1 hw
  obtain ⟨t, ht, hf⟩ :=
    fltProcess_filters s.fp (hs.voice_lt hv) (hs.hasPairs v.toNat) ⟨hchan, hlen.trans hmax⟩ hword
  obtain ⟨a', b', hab⟩ := hf.voice
  have hstates := hf.states
  rw [hab] at hstates
  refine ⟨t, { f with s1 := a', s2 := b' }, exec_fltProcess hv hp hlen ht, hf.frame.host, hf.frame.r0, hf.frame.pool,
    hf.frame.events, hf.frame.others, hab, rfl, hf.dest, fun addr haddr => ?_, fun c hc => ?_,
    fun c y a b hc ha hb hrec => ?_⟩
  · refine hf.outside addr fun c k hk => ?_
    obtain ⟨hc, hk⟩ := lt_samplesDone hk
    exact haddr c _ hc (by omega) (by omega)
  · have h := hstates c
    rw [samplesDone_of_le hc] at h
    exact Prod.mk.inj h
  · have hsvf : ∀ k, k < num → svfStep s.cfg (((s.fp.sub 1).sub c).sub (start + k)) coef (w c k) (a k) (b k)
        = (y k, a (k + 1), b (k + 1)) := by
      intro k hk
      obtain ⟨u, hu, hstep⟩ := hrec k hk
      rwa [Option.some.inj ((hword c k hc hk).symm.trans hu)]
    obtain ⟨hpair, hout⟩ := svf_of_recurrence hsvf
    rw [ha, hb] at hpair hout
    constructor
    · intro k hk
      rw [← hout k hk]
      exact hf.out c k (by rwa [samplesDone_of_lt hc])
    · have h := hstates c
      rw [samplesDone_of_lt hc] at h
      exact Prod.mk.inj (h.trans (hpair num le_rfl))

end Sys2Proof.Machine

/-! ## The Voice's commands -/

namespace Sys2Proof.Machine

/-- Settles O34: `startNote` is the update written out. -/
theorem vStartBeginsNote : Obligations.VStartBeginsNote := by
  intro s v n hv x hz inc t
  have ht : startNote s.fp v.toNat n s = t := rfl
  exact ⟨by rw [exec_vStart n hv, ht], ht⟩

theorem Voice.stopped_sounding {x : Voice} (h : x.env.stage ≠ .idle) (tail : Bool) :
    x.stopped tail =
      if tail then { x with env := { x.env with stage := .release } }
      else Voice.cleared { x with env := { x.env with stage := .release } } := by
  rw [stopped, envNoteOff_sounding h]
  cases tail <;> rfl

theorem Voice.stopped_idle {x : Voice} (h : x.env.stage = .idle) (tail : Bool) : x.stopped tail = x.cleared := by
  rw [stopped, envNoteOff_idle h]
  exact if_pos (by simp [envIsActive, h])

theorem exec_vStop {v : BitVec 8} (tail : Bool) {s : State} (hv : s.voiceExists v = true) :
    exec (.vStop v tail) s = .next (s.setVoice v.toNat ((s.voice v.toNat).stopped tail)) := by
  rw [exec, execVStop, onVoice_exists v s _ hv, stopNote]

/-- Settles O35: `Voice.stopped` by the stage of the envelope and by `TAILOFF`. -/
theorem vStopReleasesOrFrees : Obligations.VStopReleasesOrFrees := by
  intro s v tail hv x
  rw [exec_vStop tail hv]
  refine ⟨fun hst htail => ?_, fun hst htail => ?_, fun hst => ?_⟩
  · rw [Voice.stopped_sounding hst, htail]
    rfl
  · rw [Voice.stopped_sounding hst, htail]
    rfl
  · rw [Voice.stopped_idle hst]
    rfl

theorem exec_vPrepare {v : BitVec 8} {s : State} (hv : s.voiceExists v = true) :
    exec (.vPrepare v) s =
      if prepareArgsOk s.cfg s.a0 s.a1 s.a2 then
        .next (s.setVoice v.toNat ((s.voice v.toNat).prepareAll s.cfg s.fp s.a0 s.a1 s.a2))
      else raised .badOperand s := by
  rw [exec, execVPrepare, onVoice_exists v s _ hv]

/-- Settles O36: the two outcomes of `PrepareArgsOk`. -/
theorem vPrepareForwardsToUnits : Obligations.VPrepareForwardsToUnits := by
  intro s v hv x inc
  rw [exec_vPrepare hv]
  exact ⟨fun h => if_pos h, fun h => if_neg (by simp [h])⟩

/-- The sixteen-bit index of `V.UPDOSC` names the waveform of its own value (rule R228). -/
theorem waveFromIndex_zeroExtend (c : Config) (widx : BitVec 16) :
    waveFromIndex c (widx.zeroExtend 32) =
      if widx = 0#16 then .sine else if widx = 1#16 then .saw else if widx = 2#16 then .square else c.defaultWave := by
  have h : ∀ k : BitVec 16, widx.zeroExtend 32 = k.zeroExtend 32 ↔ widx = k := fun k =>
    ⟨fun h => by simpa using congrArg (BitVec.truncate 16) h, congrArg _⟩
  simp only [waveFromIndex, ← h]
  rfl

/-- Settles O37: each command is an update of the Voice by its micro-operation. -/
theorem vUpdatesWriteParameters : Obligations.VUpdatesWriteParameters := by
  intro s v widx hv x w
  have hw : w = waveFromIndex s.cfg (widx.zeroExtend 32) := (waveFromIndex_zeroExtend s.cfg widx).symm
  rw [hw]
  exact ⟨updVoice_exists (fun x => x.updateOsc s.cfg (widx.zeroExtend 32)) hv,
    updVoice_exists (fun x => x.updateFilter s.a0 s.a1) hv,
    updVoice_exists (fun x => x.updateAdsr s.a0 s.a1 s.a2 s.a3) hv⟩

end Sys2Proof.Machine

/-! ## Rendering a Voice -/

namespace Sys2Proof.Machine

/-! ### The elements of a memory that a computation writes -/

@[simp] theorem State.setMem_mem (s : State) (sp : Space) : s.setMem sp (s.mem sp) = s := by
  cases sp <;> rfl

@[simp] theorem State.setMem_setMem (s : State) (sp : Space) (m m' : Memory) :
    (s.setMem sp m).setMem sp m' = s.setMem sp m' := by
  cases sp <;> rfl

theorem State.setVoice_setMem (s : State) (v : Nat) (x : Voice) (sp : Space) (m : Memory) :
    (s.setMem sp m).setVoice v x = (s.setVoice v x).setMem sp m := by
  cases sp <;> rfl

@[simp] theorem State.setVoice_setVoice (s : State) (v : Nat) (x y : Voice) :
    (s.setVoice v x).setVoice v y = s.setVoice v y := by
  simp [State.setVoice]

theorem State.setVoice_voice (s : State) {v : Nat} (h : v < s.voices.length) : s.setVoice v (s.voice v) = s := by
  simp [State.setVoice, State.voice, List.getD_eq_getElem?_getD, h]

/-- The elements `(c, i)` of the region of `nc` channels from index `start` up to `stop` (rule R62). -/
def InRegion (nc start stop c i : Nat) : Prop := c < nc ∧ start ≤ i ∧ i < stop

/-- From `s` to `t` the elements `done` of a sample memory took the values `y`, and nothing else changed. -/
structure Writes (sp : Space) (done : Nat → Nat → Prop) (y : Nat → Nat → F32) (s t : State) : Prop where
  rest    : t = s.setMem sp (t.mem sp)
  inside  : ∀ c i, done c i → sampleExists s.cfg c i = true
  out     : ∀ c i, done c i → (t.mem sp).read (sampleAddr s.cfg c i) = some (y c i)
  outside : ∀ a, (∀ c i, done c i → a ≠ sampleAddr s.cfg c i) → (t.mem sp).read a = (s.mem sp).read a

namespace Writes

variable {sp : Space} {done done' : Nat → Nat → Prop} {y : Nat → Nat → F32} {s t u : State}

theorem nothing (h : ∀ c i, ¬ done c i) (y : Nat → Nat → F32) (s : State) : Writes sp done y s s where
  rest := (s.setMem_mem sp).symm
  inside c i hd := absurd hd (h c i)
  out c i hd := absurd hd (h c i)
  outside _ _ := rfl

theorem cfg (h : Writes sp done y s t) : t.cfg = s.cfg := by rw [h.rest, State.setMem_cfg]

theorem voice (h : Writes sp done y s t) (v : Nat) : t.voice v = s.voice v := by rw [h.rest, State.voice_setMem]

theorem voices (h : Writes sp done y s t) : t.voices = s.voices := by rw [h.rest, State.setMem_voices]

theorem mem_other (h : Writes sp done y s t) {sq : Space} (hsq : sq ≠ sp) : t.mem sq = s.mem sq := by
  rw [h.rest, State.mem_setMem_other _ _ _ _ hsq]

/-- An element that was not written is as before. -/
theorem read_other (h : Writes sp done y s t) {c i : Nat} (he : sampleExists s.cfg c i = true) (hd : ¬ done c i) :
    (t.mem sp).read (sampleAddr s.cfg c i) = (s.mem sp).read (sampleAddr s.cfg c i) := by
  refine h.outside _ fun d j hdj haddr => hd ?_
  obtain ⟨rfl, rfl⟩ := sampleAddr_inj (h.inside d j hdj) he haddr
  exact hdj

theorem congr (hd : ∀ c i, done c i ↔ done' c i) (h : Writes sp done y s t) : Writes sp done' y s t := by
  obtain rfl : done = done' := by
    funext c i
    exact propext (hd c i)
  exact h

/-- Later values stand over earlier ones. -/
theorem trans {y' z : Nat → Nat → F32} (h : Writes sp done y s t) (k : Writes sp done' y' t u)
    (hy : ∀ c i, done c i → ¬ done' c i → z c i = y c i) (hy' : ∀ c i, done' c i → z c i = y' c i) :
    Writes sp (fun c i => done c i ∨ done' c i) z s u where
  rest := by rw [k.rest, h.rest, State.setMem_setMem, State.mem_setMem]
  inside c i hd := hd.elim (h.inside c i) fun hd => h.cfg ▸ k.inside c i hd
  out c i hd := by
    by_cases hk : done' c i
    · rw [← h.cfg, hy' c i hk]
      exact k.out c i hk
    · have hd := hd.resolve_right hk
      rw [hy c i hd hk, ← h.out c i hd, ← h.cfg]
      exact k.read_other (by rw [h.cfg]; exact h.inside c i hd) hk
  outside a ha := by
    rw [k.outside a fun c i hd => by rw [h.cfg]; exact ha c i (.inr hd), h.outside a fun c i hd => ha c i (.inl hd)]

/-- Both computations write the same values. -/
theorem then_same (h : Writes sp done y s t) (k : Writes sp done' y t u) :
    Writes sp (fun c i => done c i ∨ done' c i) y s u :=
  h.trans k (fun _ _ _ _ => rfl) fun _ _ _ => rfl

theorem setVoice (h : Writes sp done y s t) (v : Nat) (x : Voice) :
    Writes sp done y (s.setVoice v x) (t.setVoice v x) where
  rest := by rw [State.mem_setVoice, ← State.setVoice_setMem, ← h.rest]
  inside := h.inside
  out c i hd := by simpa using h.out c i hd
  outside a ha := by simpa using h.outside a ha

end Writes

theorem memWrite_writes {sp : Space} {c i : Nat} (y : Nat → Nat → F32) {s : State}
    (he : sampleExists s.cfg c i = true) :
    ∃ t, memWrite sp c i (y c i) s = .ok t ∧ Writes sp (fun d j => d = c ∧ j = i) y s t := by
  refine ⟨_, (memWrite_ok_iff _ _ _ _ _ _).2 ⟨he, rfl⟩, ?_⟩
  constructor
  case rest => rw [State.mem_setMem]
  case inside => rintro _ _ ⟨rfl, rfl⟩; exact he
  case out => rintro _ _ ⟨rfl, rfl⟩; simp
  case outside =>
    intro a ha
    rw [State.mem_setMem, Memory.read_write_other _ _ _ _ (ha c i ⟨rfl, rfl⟩)]

/-- The elements written when a loop over channels of `num` samples from index `start` has done `ch` channels, and `n`
samples of the next. -/
def InProgress (ch start num n c i : Nat) : Prop :=
  InRegion ch start (start + num) c i ∨ (c = ch ∧ start ≤ i ∧ i < start + n)

theorem inProgress_zero (ch start num c i : Nat) :
    InRegion ch start (start + num) c i ↔ InProgress ch start num 0 c i := by
  simp only [InProgress, InRegion]
  omega

theorem inProgress_succ (ch start num n c i : Nat) :
    InProgress ch start num n c i ∨ (c = ch ∧ i = start + n) ↔ InProgress ch start num (n + 1) c i := by
  simp only [InProgress, InRegion]
  omega

theorem inProgress_channel (ch start num c i : Nat) :
    InProgress ch start num num c i ↔ InRegion (ch + 1) start (start + num) c i := by
  simp only [InProgress, InRegion]
  omega

theorem not_inProgress (ch start num n : Nat) : ¬ InProgress ch start num n ch (start + n) := by
  simp only [InProgress, InRegion]
  omega

/-- A loop over a region writes `y` if its body writes `y c i` from every state that has only elements of the same
memory changed, and not yet element `(c, i)`. -/
theorem forRegion_writes {sp : Space} {y : Nat → Nat → F32} {s : State} {nc start num : Nat}
    (hfits : RegionFits s.cfg nc start num) (f : Nat → Nat → State → Except Fault State)
    (hf : ∀ c i u, c < nc → start ≤ i → i < start + num → u = s.setMem sp (u.mem sp) →
      (u.mem sp).read (sampleAddr s.cfg c i) = (s.mem sp).read (sampleAddr s.cfg c i) →
      f c i u = memWrite sp c i (y c i) u) :
    ∃ t, forUp 0 nc (fun c => forUp start num (f c)) s = .ok t
      ∧ Writes sp (InRegion nc start (start + num)) y s t := by
  refine forUp_counts (fun c => Writes sp (InRegion c start (start + num)) y s) _ 0 nc s (fun c u hc hu => ?_)
    (.nothing (fun c i h => Nat.not_lt_zero c h.1) y s)
  rw [Nat.zero_add]
  have hpass : ∀ n u, n < num → Writes sp (InProgress c start num n) y s u →
      ∃ t, f c (start + n) u = .ok t ∧ Writes sp (InProgress c start num (n + 1)) y s t := by
    intro n u hn hu
    have he := hfits.sampleExists hc (Nat.add_lt_add_left hn start)
    obtain ⟨t, ht, hw⟩ := memWrite_writes (sp := sp) y (hu.cfg.symm ▸ he)
    rw [← hf c (start + n) u hc (by omega) (by omega) hu.rest (hu.read_other he (not_inProgress c start num n))] at ht
    exact ⟨t, ht, (hu.then_same hw).congr (inProgress_succ c start num n)⟩
  obtain ⟨t, ht, hw⟩ := forUp_counts _ (f c) start num u hpass (hu.congr (inProgress_zero c start num))
  exact ⟨t, ht, hw.congr (inProgress_channel c start num)⟩

/-! ### Clearing and mixing -/

theorem clearScratch_writes {s : State} {nc start num : Nat} (hfits : RegionFits s.cfg nc start num) :
    ∃ t, clearScratch nc start num s = .ok t
      ∧ Writes .scr (InRegion nc start (start + num)) (fun _ _ => fZero) s t :=
  forRegion_writes hfits (fun c i => memWrite .scr c i fZero) fun _ _ _ _ _ _ _ _ => rfl

theorem memUpdate_eq {sp : Space} {c i : Nat} {x : F32} {s : State} (h : memRead sp c i s = .ok x) (f : F32 → F32) :
    memUpdate sp c i f s = memWrite sp c i (f x) s := by
  rw [memUpdate, h]

theorem mixElement_eq (m : Fp) {c i : Nat} {x y : F32} {s : State} (hx : memRead .dest c i s = .ok x)
    (hy : memRead .scr c i s = .ok y) : mixElement m c i s = memWrite .dest c i (fadd m x y) s := by
  rw [mixElement, hy]
  exact memUpdate_eq hx fun x => fadd m x y

/-- The mixing of a region in which `DEST` holds `x` and `SCR` holds `y` (rule R225). -/
theorem mixScratch_writes (m : Fp) {s : State} {nc start len : Nat} {x y : Nat → Nat → F32}
    (hfits : RegionFits s.cfg nc start len)
    (hx : ∀ c i, InRegion nc start (start + len) c i → s.dest.read (sampleAddr s.cfg c i) = some (x c i))
    (hy : ∀ c i, InRegion nc start (start + len) c i → s.scr.read (sampleAddr s.cfg c i) = some (y c i)) :
    ∃ t, mixScratch m nc start len s = .ok t
      ∧ Writes .dest (InRegion nc start (start + len)) (fun c i => fadd ((m.sub c).sub i) (x c i) (y c i)) s t := by
  refine forRegion_writes hfits (fun c i => mixElement ((m.sub c).sub i) c i) fun c i u hc h1 h2 hrest hread => ?_
  have he := hfits.sampleExists hc h2
  have hcfg : u.cfg = s.cfg := by rw [hrest, State.setMem_cfg]
  have hscr : u.mem .scr = s.mem .scr := by rw [hrest, State.mem_setMem_other _ _ _ _ (by decide)]
  refine mixElement_eq _ ((memRead_ok_iff _ _ _ _ _).2 ?_) ((memRead_ok_iff _ _ _ _ _).2 ?_)
  · rw [hcfg, hread]
    exact ⟨he, hx c i ⟨hc, h1, h2⟩⟩
  · rw [hcfg, hscr]
    exact ⟨he, hy c i ⟨hc, h1, h2⟩⟩

theorem forUp_one {σ : Type} (f : Nat → σ → Except Fault σ) (i : Nat) : forUp i 1 f = f i := by
  funext s
  simp only [forUp]
  cases f i s <;> rfl

/-- Sample `i` updated in each of `nc` channels of `SCR`, in which it is `x`. -/
theorem updateChannels_writes {nc i : Nat} {x : F32} {y : Nat → Nat → F32} {s : State} (f : Nat → F32 → F32)
    (hfits : RegionFits s.cfg nc i 1)
    (hx : ∀ c, c < nc → (s.mem .scr).read (sampleAddr s.cfg c i) = some x) (hy : ∀ c, f c x = y c i) :
    ∃ t, forUp 0 nc (fun c => memUpdate .scr c i (f c)) s = .ok t ∧ Writes .scr (InRegion nc i (i + 1)) y s t := by
  have h := forRegion_writes (sp := .scr) (y := y) hfits (fun c j => memUpdate .scr c j (f c))
    fun c j u hc h1 h2 hrest hread => ?_
  · simpa only [forUp_one] using h
  · obtain rfl : j = i := by omega
    have hcfg : u.cfg = s.cfg := by rw [hrest, State.setMem_cfg]
    rw [memUpdate_eq (x := x), hy]
    rw [memRead_ok_iff, hcfg, hread]
    exact ⟨hfits.sampleExists hc h2, hx c hc⟩

/-! ### The samples of a render -/

/-- The Oscillator and the envelope of Voice `v` after `k` samples of a render from index `start`. -/
def State.sound (s : State) (m : Fp) (v start k : Nat) : Osc × Env :=
  soundState s.cfg m start (s.voice v).osc (s.voice v).env k

/-- Voice `v` after `k` samples of a render, none of which ended it. -/
def State.soundingVoice (s : State) (m : Fp) (v start k : Nat) : Voice :=
  { s.voice v with osc := (s.sound m v start k).1, env := (s.sound m v start k).2 }

/-- The envelope of Voice `v` ended the render in its sample `w` (rule R225). -/
def State.soundEnded (s : State) (m : Fp) (v start w : Nat) : Bool :=
  decide (0 < w) && decide ((s.sound m v start w).2.stage = .idle)

/-- Voice `v` after the `w` samples of a render: freed if its envelope ended it. -/
def State.renderedVoice (s : State) (m : Fp) (v start w : Nat) : Voice :=
  { s.soundingVoice m v start w with
    active := !s.soundEnded m v start w
    note := if s.soundEnded m v start w then none else (s.voice v).note }

/-- Sample `k` of a render added to silence in channel `c`, before the filter (rule R225). -/
def State.drySample (s : State) (m : Fp) (v start c k : Nat) : F32 :=
  fadd (((m.sub (start + k)).sub 3).sub c) fZero
    (soundSample s.cfg m start (s.voice v).osc (s.voice v).env k)

/-- What the filter finds in channel `c` after a render of `w` samples: those samples, then silence. -/
def State.dryInput (s : State) (m : Fp) (v start w c k : Nat) : F32 :=
  if k < w then s.drySample m v start c k else fZero

section
variable {s : State} {m : Fp} {v start : Nat}

theorem renderedVoice_ended {w : Nat} (h : s.soundEnded m v start w = true) :
    s.renderedVoice m v start w = (s.soundingVoice m v start w).cleared := by
  simp [State.renderedVoice, h, Voice.cleared]

theorem renderedVoice_sounding {w : Nat} (ha : (s.voice v).active = true) (h : s.soundEnded m v start w = false) :
    s.renderedVoice m v start w = s.soundingVoice m v start w := by
  simp [State.renderedVoice, h, State.soundingVoice, ha]

theorem soundEnded_succ (k : Nat) :
    s.soundEnded m v start (k + 1) = !envIsActive (s.soundingVoice m v start (k + 1)).env := by
  by_cases h : (s.sound m v start (k + 1)).2.stage = .idle <;>
    simp [State.soundEnded, envIsActive, State.soundingVoice, h]

/-- One sample of a render whose channel loop succeeds (rule R225). -/
theorem renderSamples_succ {nc k : Nat} {u t : State} (hcfg : u.cfg = s.cfg)
    (hvoice : u.voice v = s.soundingVoice m v start k)
    (h : forUp 0 nc
      (fun c => memUpdate .scr c (start + k) fun y =>
        fadd (((m.sub (start + k)).sub 3).sub c) y (soundSample s.cfg m start (s.voice v).osc (s.voice v).env k))
      (u.setVoice v (s.soundingVoice m v start (k + 1))) = .ok t) (n w : Nat) :
    renderSamples m v nc (n + 1) (start + k) w u =
      if s.soundEnded m v start (k + 1) then .ok (w + 1, clearVoice v t)
      else renderSamples m v nc n (start + (k + 1)) (w + 1) t := by
  simp only [renderSamples, hvoice, hcfg]
  split
  · next e he => exact absurd (he.symm.trans h) (by simp)
  · next t' ht =>
    obtain rfl : t' = t := Except.ok.inj (ht.symm.trans h)
    rw [soundEnded_succ]
    change (if envIsActive (s.soundingVoice m v start (k + 1)).env then _ else _) = _
    cases envIsActive (s.soundingVoice m v start (k + 1)).env <;> rfl

/-- From `s` to `u` a render from index `start` has added `k` samples in each of `nc` channels of a silent `SCR`, and
Voice `v` has become `x`. -/
def Sounded (m : Fp) (v nc start : Nat) (s : State) (x : Voice) (k : Nat) (u : State) : Prop :=
  Writes .scr (InRegion nc start (start + k)) (fun c i => s.drySample m v start c (i - start))
    (s.setVoice v x) u

theorem Sounded.begins {nc : Nat} (hv : v < s.voices.length) :
    Sounded m v nc start s (s.soundingVoice m v start 0) 0 s := by
  rw [Sounded, show s.soundingVoice m v start 0 = s.voice v from rfl, State.setVoice_voice s hv]
  exact .nothing (fun c i => by simp only [InRegion]; omega) _ s

theorem Sounded.voice {nc k : Nat} {x : Voice} {u : State} (h : Sounded m v nc start s x k u)
    (hv : v < s.voices.length) : u.voice v = x :=
  (Writes.voice h v).trans (State.voice_setVoice_same s v x hv)

theorem Sounded.setVoice {nc k : Nat} {x : Voice} {u : State} (h : Sounded m v nc start s x k u) (y : Voice) :
    Sounded m v nc start s y k (u.setVoice v y) := by
  have hset := Writes.setVoice h v y
  rwa [State.setVoice_setVoice] at hset

theorem Sounded.cleared {nc k : Nat} {x : Voice} {u : State} (h : Sounded m v nc start s x k u)
    (hv : v < s.voices.length) : Sounded m v nc start s x.cleared k (clearVoice v u) := by
  rw [clearVoice, h.voice hv]
  exact h.setVoice x.cleared

/-- One more sample of a render (rule R225). -/
theorem Sounded.addSample {nc num k : Nat} {u : State} (hv : v < s.voices.length)
    (hfits : RegionFits s.cfg nc start num)
    (hsilent : ∀ c i, InRegion nc start (start + num) c i → s.scr.read (sampleAddr s.cfg c i) = some fZero)
    (hk : k < num) (hu : Sounded m v nc start s (s.soundingVoice m v start k) k u) (n w : Nat) :
    ∃ t, Sounded m v nc start s (s.soundingVoice m v start (k + 1)) (k + 1) t
      ∧ renderSamples m v nc (n + 1) (start + k) w u =
        if s.soundEnded m v start (k + 1) then .ok (w + 1, clearVoice v t)
        else renderSamples m v nc n (start + (k + 1)) (w + 1) t := by
  have hpulled := hu.setVoice (s.soundingVoice m v start (k + 1))
  have hcfg : (u.setVoice v (s.soundingVoice m v start (k + 1))).cfg = s.cfg := hpulled.cfg
  have hread : ∀ c, c < nc → ((u.setVoice v (s.soundingVoice m v start (k + 1))).mem .scr).read
      (sampleAddr s.cfg c (start + k)) = some fZero := fun c hc =>
    (hpulled.read_other (hfits.sampleExists hc (by omega)) (by simp only [InRegion]; omega)).trans
      (hsilent c _ ⟨hc, by omega, by omega⟩)
  have hfits' : RegionFits s.cfg nc (start + k) 1 := ⟨hfits.1, by have := hfits.2; omega⟩
  obtain ⟨t, ht, hw⟩ := updateChannels_writes (y := fun c i => s.drySample m v start c (i - start))
    (fun c y =>
      fadd (((m.sub (start + k)).sub 3).sub c) y (soundSample s.cfg m start (s.voice v).osc (s.voice v).env k))
    (hcfg ▸ hfits') (hcfg ▸ hread) fun c => by rw [State.drySample, Nat.add_sub_cancel_left]
  refine ⟨t, (hpulled.then_same hw).congr fun c i => ?_, renderSamples_succ (s := s) hu.cfg (hu.voice hv) ht n w⟩
  simp only [InRegion]
  omega

/-- A render of `num` samples ends after `w`: at the first whose envelope is Idle, or at the end (rule R225). -/
structure SoundsFor (s : State) (m : Fp) (v start num w : Nat) : Prop where
  le   : w ≤ num
  live : ∀ k, k < w → s.soundEnded m v start k = false
  stop : w < num → s.soundEnded m v start w = true

/-- The per-sample loop of `RenderVoice` over a silent region of `SCR` (rule R225). -/
theorem renderSamples_sounds {nc num : Nat} (hv : v < s.voices.length) (hactive : (s.voice v).active = true)
    (hfits : RegionFits s.cfg nc start num)
    (hsilent : ∀ c i, InRegion nc start (start + num) c i → s.scr.read (sampleAddr s.cfg c i) = some fZero)
    (n k : Nat) (u : State) (hnum : k + n = num) (hlive : ∀ j, j ≤ k → s.soundEnded m v start j = false)
    (hu : Sounded m v nc start s (s.soundingVoice m v start k) k u) :
    ∃ w t, renderSamples m v nc n (start + k) k u = .ok (w, t) ∧ SoundsFor s m v start num w
      ∧ Sounded m v nc start s (s.renderedVoice m v start w) w t := by
  induction n generalizing k u with
  | zero =>
    refine ⟨k, u, rfl, ⟨by omega, fun j hj => hlive j hj.le, fun h => absurd h (by omega)⟩, ?_⟩
    rwa [renderedVoice_sounding hactive (hlive k le_rfl)]
  | succ n ih =>
    obtain ⟨t, ht, hstep⟩ := hu.addSample hv hfits hsilent (by omega) n k
    rw [hstep]
    cases hended : s.soundEnded m v start (k + 1) with
    | true =>
      refine ⟨k + 1, clearVoice v t, rfl, ⟨by omega, fun j hj => hlive j (by omega), fun _ => hended⟩, ?_⟩
      rw [renderedVoice_ended hended]
      exact ht.cleared hv
    | false =>
      refine ih (k + 1) t (by omega) (fun j hj => ?_) ht
      rcases Nat.le_succ_iff.1 hj with hj | rfl
      · exact hlive j hj
      · exact hended

end

/-! ### The stages of a render -/

/-- Silencing the region of `SCR` and the per-sample loop after it (rule R225). -/
theorem renderSamples_dry (m : Fp) {v nc start num : Nat} {s : State} (hv : v < s.voices.length)
    (hactive : (s.voice v).active = true) (hfits : RegionFits s.cfg nc start num) :
    ∃ s1 w s2, clearScratch nc start num s = .ok s1 ∧ renderSamples m v nc num start 0 s1 = .ok (w, s2)
      ∧ SoundsFor s m v start num w
      ∧ Writes .scr (InRegion nc start (start + num)) (fun c i => s.dryInput m v start w c (i - start))
          (s.setVoice v (s.renderedVoice m v start w)) s2 := by
  obtain ⟨s1, h1, hclear⟩ := clearScratch_writes hfits
  obtain ⟨scr, rfl⟩ : ∃ scr, s1 = s.setMem .scr scr := ⟨_, hclear.rest⟩
  have hv1 : v < (s.setMem .scr scr).voices.length := hv
  obtain ⟨w, s2, h2, hsounds, hdry⟩ := renderSamples_sounds (m := m) hv1 hactive hfits hclear.out num 0 _
    (Nat.zero_add num) (fun j hj => by rw [Nat.le_zero.1 hj]; rfl) (Sounded.begins hv1)
  have hle := hsounds.le
  refine ⟨_, w, s2, h1, h2, ⟨hle, hsounds.live, hsounds.stop⟩, ?_⟩
  refine ((hclear.setVoice v (s.renderedVoice m v start w)).trans hdry (fun c i hd hnd => ?_) fun c i hd => ?_).congr
    fun c i => ?_
  · exact if_neg (by simp only [InRegion] at hd hnd; omega)
  · exact if_pos (by simp only [InRegion] at hd; omega)
  · simp only [InRegion]
    omega

/-- How many samples of each channel are filtered and mixed after a render of `w` samples (rules R7, R226). -/
def State.wetLen (s : State) (num w : Nat) : Nat := if s.cfg.filterRange = .full then num else w

theorem wetLen_bounds (s : State) {num w : Nat} (h : w ≤ num) : w ≤ s.wetLen num w ∧ s.wetLen num w ≤ num := by
  rw [State.wetLen]
  split <;> omega

/-- The coefficient set with which a render filters Voice `v` (rule R205). -/
def State.renderCoef (s : State) (m : Fp) (v : Nat) : Coef :=
  svfCoef s.cfg ((m.sub 1).sub 0) (s.voice v).flt.cutoff (s.voice v).flt.q (s.voice v).flt.sr

/-- Sample `k` of channel `c` after the filter of a render of `w` samples. -/
def State.wetSample (s : State) (m : Fp) (v start w c k : Nat) : F32 :=
  s.fltOutput ((m.sub 1).sub 1) (s.renderCoef m v) v start (s.dryInput (m.sub 0) v start w) c k

/-- `RenderVoice` from `s` to `t`, where `DEST` holds `d` in `s`: in `s2` its `w` samples are in `SCR`, in `s3` they are
filtered (rules R225, R226). -/
structure RenderStages (m : Fp) (v start num w : Nat) (d : Nat → Nat → F32) (s s2 s3 t : State) : Prop where
  runs     : renderVoice m v start num s = .ok t
  sounds   : SoundsFor s (m.sub 0) v start num w
  dry      : Writes .scr (InRegion (s.voice v).flt.nchan.toNat start (start + num))
               (fun c i => s.dryInput (m.sub 0) v start w c (i - start))
               (s.setVoice v (s.renderedVoice (m.sub 0) v start w)) s2
  filtered : Filtered ((m.sub 1).sub 1) (s.renderCoef m v) v start (s.dryInput (m.sub 0) v start w) s2
               (samplesDone (s.wetLen num w) (s.voice v).flt.nchan.toNat 0) s3
  mixed    : Writes .dest (InRegion (s.voice v).flt.nchan.toNat start (start + s.wetLen num w))
               (fun c i => fadd (((m.sub 2).sub c).sub i) (d c i) (s.wetSample m v start w c (i - start))) s3 t

theorem renderVoice_ok {m : Fp} {v start num w : Nat} {s s1 s2 s3 t : State} (hactive : (s.voice v).active = true)
    (h1 : clearScratch (s.voice v).flt.nchan.toNat start num s = .ok s1)
    (h2 : renderSamples (m.sub 0) v (s.voice v).flt.nchan.toNat num start 0 s1 = .ok (w, s2))
    (h3 : fltProcess (m.sub 1) v start (s.wetLen num w) s2 = .ok s3)
    (h4 : mixScratch (m.sub 2) (s.voice v).flt.nchan.toNat start (s.wetLen num w) s3 = .ok t) :
    renderVoice m v start num s = .ok t := by
  rw [State.wetLen] at h3 h4
  simp only [renderVoice, hactive, if_true, h1, h2, h3, h4]

/-- The filter sees the configuration and its own states only. -/
theorem fltOutput_congr {s t : State} {v : Nat} (hcfg : t.cfg = s.cfg) (hflt : (t.voice v).flt = (s.voice v).flt)
    (m : Fp) (coef : Coef) (start : Nat) (x : Nat → Nat → F32) (c n : Nat) :
    t.fltOutput m coef v start x c n = s.fltOutput m coef v start x c n := by
  rw [State.fltOutput, hcfg, hflt, State.fltOutput]

theorem fltStates_congr {s t : State} {v : Nat} (hcfg : t.cfg = s.cfg) (hflt : (t.voice v).flt = (s.voice v).flt)
    (m : Fp) (coef : Coef) (start : Nat) (x : Nat → Nat → F32) (c n : Nat) :
    t.fltStates m coef v start x c n = s.fltStates m coef v start x c n := by
  rw [State.fltStates, hcfg, hflt, State.fltStates]

/-- An active Voice renders in stages over a region of `DEST` that holds `d`. -/
theorem renderVoice_stages (m : Fp) {v start num : Nat} {d : Nat → Nat → F32} {s : State} (hv : v < s.voices.length)
    (hactive : (s.voice v).active = true) (hpairs : (s.voice v).flt.HasPairs s.cfg.capChan)
    (hfits : RegionFits s.cfg (s.voice v).flt.nchan.toNat start num)
    (hd : ∀ c i, InRegion (s.voice v).flt.nchan.toNat start (start + num) c i →
      s.dest.read (sampleAddr s.cfg c i) = some (d c i)) :
    ∃ w s2 s3 t, RenderStages m v start num w d s s2 s3 t := by
  obtain ⟨s1, w, s2, h1, h2, hsounds, hdry⟩ := renderSamples_dry (m.sub 0) hv hactive hfits
  obtain ⟨-, hlen⟩ := wetLen_bounds s hsounds.le
  have hfits' : RegionFits s.cfg (s.voice v).flt.nchan.toNat start (s.wetLen num w) :=
    ⟨hfits.1, (Nat.add_le_add_left hlen start).trans hfits.2⟩
  have hcfg : s2.cfg = s.cfg := hdry.cfg
  have hflt : (s2.voice v).flt = (s.voice v).flt := by
    rw [hdry.voice, State.voice_setVoice_same s v _ hv]
    rfl
  have hscr : ∀ c k, c < (s.voice v).flt.nchan.toNat → k < s.wetLen num w →
      (s2.mem .scr).read (sampleAddr s.cfg c (start + k)) = some (s.dryInput (m.sub 0) v start w c k) := by
    intro c k hc hk
    have h := hdry.out c (start + k) ⟨hc, by omega, by omega⟩
    rwa [Nat.add_sub_cancel_left] at h
  obtain ⟨s3, h3, hfilt⟩ := fltProcess_filters (m.sub 1) (x := s.dryInput (m.sub 0) v start w)
    (show v < s2.voices.length by rw [hdry.voices]; simpa using hv) (by rwa [hflt, hcfg]) (by rwa [hflt, hcfg])
    (by rwa [hflt, hcfg])
  rw [hcfg, hflt] at hfilt
  have hcfg3 : s3.cfg = s.cfg := hfilt.cfg.trans hcfg
  have hdest : ∀ a, s3.dest.read a = s.dest.read a := fun a =>
    (hfilt.dest a).trans (congrArg (Memory.read · a) (hdry.mem_other (by decide)))
  obtain ⟨t, h4, hmix⟩ := mixScratch_writes (m.sub 2) (nc := (s.voice v).flt.nchan.toNat) (start := start)
    (x := d) (y := fun c i => s.wetSample m v start w c (i - start)) (hcfg3.symm ▸ hfits')
    (fun c i hi => by
      obtain ⟨hc, h1, h2⟩ := hi
      rw [hcfg3, hdest]
      exact hd c i ⟨hc, h1, by omega⟩)
    (fun c i hi => by
      obtain ⟨hc, h1, h2⟩ := hi
      have h := hfilt.out c (i - start) (by rw [samplesDone_of_lt hc]; omega)
      rw [hcfg, Nat.add_sub_cancel' h1, fltOutput_congr hcfg hflt] at h
      rwa [hcfg3])
  exact ⟨w, s2, s3, t, renderVoice_ok hactive h1 h2 h3 h4, hsounds, hdry, hfilt, hmix⟩

/-! ### What a render leaves -/

theorem InRegion.ne_of_outside {cfg : Config} {nc start num stop a : Nat}
    (ha : ∀ c i, c < nc → start ≤ i → i < start + num → a ≠ sampleAddr cfg c i) (h : stop ≤ start + num)
    (c i : Nat) (hi : InRegion nc start stop c i) : a ≠ sampleAddr cfg c i := by
  obtain ⟨hc, h1, h2⟩ := hi
  exact ha c i hc h1 (h2.trans_le h)

/-- A sample of a channel that is not filtered yet is as before. -/
theorem Filtered.read_undone {m : Fp} {coef : Coef} {v start : Nat} {x : Nat → Nat → F32} {s t : State}
    {done : Nat → Nat} (h : Filtered m coef v start x s done t) {c k : Nat}
    (he : sampleExists s.cfg c (start + k) = true) (hk : done c ≤ k) :
    (t.mem .scr).read (sampleAddr s.cfg c (start + k)) = (s.mem .scr).read (sampleAddr s.cfg c (start + k)) := by
  refine h.outside _ fun d j hj haddr => ?_
  obtain ⟨rfl, hi⟩ := sampleAddr_inj (h.inside d j hj) he haddr
  omega

namespace RenderStages

variable {m : Fp} {v start num w : Nat} {d : Nat → Nat → F32} {s s2 s3 t : State}
  (h : RenderStages m v start num w d s s2 s3 t)
include h

theorem len_le : s.wetLen num w ≤ num := (wetLen_bounds s h.sounds.le).2

theorem cfg_dry : s2.cfg = s.cfg := h.dry.cfg

theorem cfg_filtered : s3.cfg = s.cfg := h.filtered.cfg.trans h.cfg_dry

theorem scr_mixed : t.scr = s3.scr :=
  h.mixed.mem_other (sq := .scr) (by decide)

theorem dest_filtered (a : Nat) : s3.dest.read a = s.dest.read a :=
  (h.filtered.dest a).trans (congrArg (Memory.read · a) (h.dry.mem_other (by decide)))

theorem voice_dry (hv : v < s.voices.length) :
    s2.voice v = s.renderedVoice (m.sub 0) v start w :=
  (h.dry.voice v).trans (State.voice_setVoice_same s v _ hv)

/-- Voice `v` at the end of a render: only the integrator states are not yet as its samples left them. -/
theorem voice (hv : v < s.voices.length) :
    ∃ a b, t.voice v = { s.renderedVoice (m.sub 0) v start w with
      flt := { (s.voice v).flt with s1 := a, s2 := b } } := by
  obtain ⟨a, b, hab⟩ := h.filtered.voice
  rw [h.voice_dry hv] at hab
  exact ⟨a, b, (h.mixed.voice v).trans hab⟩

theorem states (hv : v < s.voices.length) (c : Nat) :
    (t.voice v).flt.pair c = s.fltStates ((m.sub 1).sub 1) (s.renderCoef m v) v start
      (s.dryInput (m.sub 0) v start w) c (samplesDone (s.wetLen num w) (s.voice v).flt.nchan.toNat 0 c) := by
  rw [h.mixed.voice, h.filtered.states, fltStates_congr h.cfg_dry]
  rw [h.voice_dry hv]
  rfl

theorem wet (hv : v < s.voices.length) {c k : Nat}
    (hc : c < (s.voice v).flt.nchan.toNat) (hk : k < s.wetLen num w) :
    t.scr.read (sampleAddr s.cfg c (start + k)) = some (s.wetSample m v start w c k) := by
  have hout := h.filtered.out c k (by rwa [samplesDone_of_lt hc])
  rw [h.cfg_dry, fltOutput_congr h.cfg_dry (by rw [h.voice_dry hv]; rfl)] at hout
  rw [h.scr_mixed]
  exact hout

/-- What is not filtered is as the per-sample loop left it. -/
theorem tail {c k : Nat} (hc : c < (s.voice v).flt.nchan.toNat)
    (hlen : s.wetLen num w ≤ k) (hk : k < num) : t.scr.read (sampleAddr s.cfg c (start + k)) = some fZero := by
  obtain ⟨hw, -⟩ := wetLen_bounds s h.sounds.le
  have hregion : InRegion (s.voice v).flt.nchan.toNat start (start + num) c (start + k) := ⟨hc, by omega, by omega⟩
  have hdry := h.dry.out c (start + k) hregion
  rw [Nat.add_sub_cancel_left, State.dryInput, if_neg (by omega)] at hdry
  have hread := h.filtered.read_undone (c := c) (k := k) (h.cfg_dry.symm ▸ h.dry.inside c _ hregion)
    (by rwa [samplesDone_of_lt hc])
  rw [h.cfg_dry] at hread
  rw [h.scr_mixed]
  exact hread.trans hdry

theorem scr_outside :
    SameMemOutside .scr (s.voice v).flt.nchan.toNat start num s t := by
  intro a ha
  have hfilt := h.filtered.outside a fun c k hk => by
    obtain ⟨hc, hk⟩ := lt_samplesDone hk
    rw [h.cfg_dry]
    exact ha c _ hc (by omega) (by have := h.len_le; omega)
  have hdry := h.dry.outside a fun c i hi => hi.ne_of_outside ha le_rfl
  rw [h.mixed.mem_other (by decide), hfilt, hdry, State.mem_setVoice]

theorem dest_outside :
    SameMemOutside .dest (s.voice v).flt.nchan.toNat start (s.wetLen num w) s t := by
  intro a ha
  refine (h.mixed.outside a fun c i hi => ?_).trans (h.dest_filtered a)
  rw [h.cfg_filtered]
  exact hi.ne_of_outside ha le_rfl

theorem dest {c k : Nat}
    (hc : c < (s.voice v).flt.nchan.toNat) (hk : k < s.wetLen num w) :
    t.dest.read (sampleAddr s.cfg c (start + k))
      = some (fadd (((m.sub 2).sub c).sub (start + k)) (d c (start + k)) (s.wetSample m v start w c k)) := by
  have hout := h.mixed.out c (start + k) ⟨hc, by omega, by omega⟩
  rwa [Nat.add_sub_cancel_left, h.cfg_filtered] at hout

end RenderStages

theorem soundEnded_iff (s : State) (m : Fp) (v start w : Nat) :
    s.soundEnded m v start w = true ↔ 0 < w ∧ (s.sound m v start w).2.stage = .idle := by
  simp [State.soundEnded]

theorem exec_vRender {v : BitVec 8} {s t : State} (hv : s.voiceExists v = true)
    (hr : (s.voice v.toNat).ready = true)
    (hlen : s.a0.toNat + s.a1.toNat ≤ (s.voice v.toNat).flt.maxblock.toNat)
    (h : renderVoice s.fp v.toNat s.a0.toNat s.a1.toNat s = .ok t) : exec (.vRender v) s = .next t := by
  rw [exec, execVRender_guards hv, if_neg (by simp [hr]), if_neg hlen.not_gt, h]
  rfl

/-- Settles O39: the stages of `RenderVoice` by `renderVoice_stages`, and what they leave. -/
theorem vRenderMixesAdditively : Obligations.VRenderMixesAdditively := by
  intro s v hs hv x start num nc m sound coef hr hactive hlen hw
  obtain ⟨hmax, hchan⟩ := Voice.wf_sizes (hs.voice_wf v.toNat)
  have hlt := hs.voice_lt hv
  choose! d hd using (s.regionWritten_iff .dest nc start num).1 hw
  obtain ⟨w, s2, s3, t, h⟩ := renderVoice_stages m (d := fun c i => d c (i - start)) hlt hactive
    (hs.hasPairs v.toNat) (start := start) (num := num) ⟨hchan, hlen.trans hmax⟩ fun c i hi => by
      obtain ⟨hc, h1, h2⟩ := hi
      have hread := hd c (i - start) hc (by omega)
      rwa [Nat.add_sub_cancel' h1] at hread
  have hframe := renderVoice_frame m v.toNat start num s t h.runs
  obtain ⟨a, b, hvoice⟩ := h.voice hlt
  have hstates := h.states hlt
  rw [hvoice] at hstates
  refine ⟨t, w, { x.flt with s1 := a, s2 := b }, exec_vRender hv hr hlen h.runs, hframe.host, hframe.r0, hframe.pool,
    hframe.events, hframe.others, h.sounds.le, fun k hk hkw hidle => ?_, fun hwnum => ?_, hvoice, rfl, fun c hc => ?_,
    h.scr_outside, h.dest_outside, fun c hc => ⟨fun k hk => ?_, fun k => h.tail hc, ?_⟩⟩
  · have hended := (soundEnded_iff s (m.sub 0) v.toNat start k).2 ⟨hk, hidle⟩
    rw [h.sounds.live k hkw] at hended
    exact absurd hended (by decide)
  · exact (soundEnded_iff s (m.sub 0) v.toNat start w).1 (h.sounds.stop hwnum)
  · have hpair := hstates c
    rw [samplesDone_of_le hc] at hpair
    exact Prod.mk.inj hpair
  · have hmixed := h.dest hc hk
    rw [Nat.add_sub_cancel_left] at hmixed
    exact ⟨h.wet hlt hc hk, d c k, hd c k hc (hk.trans_le h.len_le), hmixed⟩
  · have hpair := hstates c
    rw [samplesDone_of_lt hc] at hpair
    exact hpair

end Sys2Proof.Machine

/-! ## A loop that updates the Voices one by one -/

namespace Sys2Proof.Machine

/-- If pass `i` leads from every state that stands at `i` to one that stands at `i + 1`, the loop stands at its end. -/
theorem eachUp_counts {σ : Type} (P : Nat → σ → Prop) (f : Nat → σ → σ) (start n : Nat) (s : σ)
    (hf : ∀ i u, i < n → P i u → P (i + 1) (f (start + i) u)) (hs : P 0 s) : P n (eachUp start n f s) := by
  induction n generalizing P start s with
  | zero => exact hs
  | succ n ih =>
    refine ih (fun i => P (i + 1)) (start + 1) (f start s) (fun i u hi hu => ?_) (hf 0 s n.succ_pos hs)
    rw [show start + 1 + i = start + (i + 1) by omega]
    exact hf (i + 1) u (Nat.succ_lt_succ hi) hu

/-- From `s` to `t` the first `n` Voices were updated by `F`, and nothing else changed. -/
structure VoicesUpdated (F : Nat → Voice → Voice) (s : State) (n : Nat) (t : State) : Prop where
  rest   : t = { s with voices := t.voices }
  length : t.voices.length = s.voices.length
  done   : ∀ v, v < n → t.voice v = F v (s.voice v)
  todo   : ∀ v, n ≤ v → t.voice v = s.voice v

theorem VoicesUpdated.refl (F : Nat → Voice → Voice) (s : State) : VoicesUpdated F s 0 s :=
  ⟨rfl, rfl, fun v hv => absurd hv v.not_lt_zero, fun _ _ => rfl⟩

theorem VoicesUpdated.next {F : Nat → Voice → Voice} {s t : State} {n : Nat} (h : VoicesUpdated F s n t)
    (hn : n < s.voices.length) : VoicesUpdated F s (n + 1) (t.setVoice n (F n (t.voice n))) where
  rest := by
    rw [h.rest]
    rfl
  length := by rw [State.setVoice_voices, List.length_set, h.length]
  done v hv := by
    rcases Nat.lt_succ_iff_lt_or_eq.1 hv with hv | rfl
    · rw [State.voice_setVoice_other t v n _ hv.ne, h.done v hv]
    · rw [State.voice_setVoice_same t v _ (by rwa [h.length]), h.todo v le_rfl]
  todo v hv := by
    rw [State.voice_setVoice_other t v n _ (by omega), h.todo v (by omega)]

theorem eachUp_voicesUpdated (F : Nat → Voice → Voice) {f : Nat → State → State} {s : State} {n : Nat}
    (hn : n ≤ s.voices.length)
    (hf : ∀ v t, t = { s with voices := t.voices } → f v t = t.setVoice v (F v (t.voice v))) :
    VoicesUpdated F s n (eachUp 0 n f s) :=
  eachUp_counts (VoicesUpdated F s) f 0 n s
    (fun v t hv ht => by
      rw [Nat.zero_add, hf v t ht.rest]
      exact ht.next (by omega))
    (.refl F s)

theorem applySnapshot_voicesUpdated {s : State} (h : s.voices.length = s.cfg.nvoices) :
    VoicesUpdated (fun _ x => x.applyParams s.cfg s.snap) s s.cfg.nvoices (applySnapshot s) :=
  eachUp_voicesUpdated _ h.ge fun v t ht => by rw [ht]

/-- Settles O48: the loop of `ApplySnapshot` updates each Voice by `Voice.applyParams`. -/
theorem applySnapshotReachesEveryVoice : Obligations.ApplySnapshotReachesEveryVoice := by
  intro s hlen
  have h := applySnapshot_voicesUpdated hlen
  exact ⟨h.rest, h.length, fun v hv => h.done v hv⟩

/-! ### `P.PREPARE` -/

/-- The loop of `P.PREPARE` updates each Voice by `Voice.prepareAll`, once the pool has its values (rule R250). -/
theorem preparePool_eq (m : Fp) (sr : F32) (mb nc : Word) {s : State} (h : s.voices.length = s.cfg.nvoices) :
    ∃ u, VoicesUpdated (fun v x => x.prepareAll s.cfg (m.sub v) sr mb nc)
        { s with pool := { s.pool with sr := sr, maxblock := mb, nchan := nc } } s.cfg.nvoices u
      ∧ preparePool m sr mb nc s = { u with pool := { u.pool with ready := true } } :=
  ⟨_, eachUp_voicesUpdated _ h.ge fun v t ht => by rw [ht], rfl⟩

/-- Settles O40: the loop over the Voices by `preparePool_eq`; bad operands by the command's guard. -/
theorem pPreparePreparesEveryVoice : Obligations.PPreparePreparesEveryVoice := by
  refine ⟨fun s hlen hok => ?_, fun s hbad => if_neg (by simp [hbad])⟩
  obtain ⟨u, hu, hprepared⟩ := preparePool_eq s.fp s.a0 s.a1 s.a2 hlen
  refine ⟨_, (if_pos hok).trans (congrArg _ hprepared), ?_⟩
  have hrest := hu.rest
  have hlength := hu.length
  refine ⟨by rw [hrest], ?_, by rw [hrest], by rw [hrest], fun a => by rw [hrest]; rfl, fun a => by rw [hrest]; rfl,
    hlength, fun v hv => hu.done v hv⟩
  rw [hrest]
  exact ⟨⟨rfl, rfl, rfl, rfl, rfl⟩, ⟨rfl, rfl, rfl, rfl⟩, ⟨rfl, rfl⟩, rfl, rfl, rfl, rfl, rfl⟩

/-! ## The pool's note commands and its queue -/

/-- The lowest Voice with a property is the one that an ascending scan finds (rule R251). -/
theorem lowestVoice_iff (s : State) (p : Voice → Bool) (v : Nat) :
    LowestVoice s p v ↔ s.voices.findIdx? p = some v := by
  rw [List.findIdx?_eq_some_iff_getElem]
  constructor
  · rintro ⟨⟨x, hx, hp⟩, hlow⟩
    obtain ⟨hv, rfl⟩ := List.getElem?_eq_some_iff.1 hx
    exact ⟨hv, hp, fun u hu => by simp [hlow u _ hu (List.getElem?_eq_getElem (hu.trans hv))]⟩
  · rintro ⟨hv, hp, hlow⟩
    refine ⟨⟨_, List.getElem?_eq_getElem hv, hp⟩, fun u x hu hx => ?_⟩
    obtain ⟨-, rfl⟩ := List.getElem?_eq_some_iff.1 hx
    simpa using hlow u hu

theorem findAssigned_of_lowest {s : State} {n : BitVec 7} {v : Nat} (h : LowestVoice s (fun x => x.holds n) v) :
    findAssigned s n = some v :=
  (lowestVoice_iff s _ v).1 h

theorem findAssigned_of_none {s : State} {n : BitVec 7} (h : ∀ x ∈ s.voices, x.holds n = false) :
    findAssigned s n = none :=
  List.findIdx?_eq_none_iff.2 h

theorem findFree_of_lowest {s : State} {v : Nat} (h : LowestVoice s (fun x => !x.active) v) : findFree s = some v :=
  (lowestVoice_iff s _ v).1 h

theorem findFree_of_none {s : State} (h : ∀ x ∈ s.voices, x.active = true) : findFree s = none :=
  List.findIdx?_eq_none_iff.2 fun x hx => by simp [h x hx]

/-- Settles O41, from the outcomes of the two scans. -/
theorem pNoteonAllocates : Obligations.PNoteonAllocates := by
  intro s n
  simp only [exec, execPNoteon, allocNoteOn]
  refine ⟨fun v hv => ?_, fun v hnone hv => ?_, fun hall => ?_⟩
  · rw [findAssigned_of_lowest hv]
  · rw [findAssigned_of_none hnone, findFree_of_lowest hv]
  · rw [findAssigned_of_none fun x hx => (hall x hx).1, findFree_of_none fun x hx => (hall x hx).2]
    rfl

theorem routeNoteOff_of_lowest {s : State} {n : BitVec 7} {v : Nat} (h : LowestVoice s (fun x => x.holds n) v)
    (tail : Bool) : routeNoteOff n tail s = s.setVoice v ((s.voice v).stopped tail) := by
  rw [routeNoteOff, findAssigned_of_lowest h]
  rfl

theorem routeNoteOff_of_none {s : State} {n : BitVec 7} (h : ∀ x ∈ s.voices, x.holds n = false) (tail : Bool) :
    routeNoteOff n tail s = s := by
  rw [routeNoteOff, findAssigned_of_none h]

/-- Settles O43: the Voice found is stopped as by `V.STOP`, by the stage of its envelope and by `TAILOFF`. -/
theorem pNoteoffRoutes : Obligations.PNoteoffRoutes := by
  intro s n tail
  refine ⟨fun v hv => ?_, fun hnone => congrArg _ (routeNoteOff_of_none hnone tail)⟩
  intro x e y
  have hy : x.stopped tail = y := by
    by_cases hst : x.env.stage = .idle
    · rw [Voice.stopped_idle hst]
      simp only [y, e, hst, if_true, or_true]
      rfl
    · rw [Voice.stopped_sounding hst]
      cases tail with
      | false =>
        simp only [y, e, hst, if_true, if_false, true_or]
        rfl
      | true => simp only [y, e, hst, if_true, if_false, or_false, reduceCtorEq]
  rw [exec, execPNoteoff, routeNoteOff_of_lowest hv, ← hy]
  rfl

/-- Settles O44: the two sides of the queue's capacity. -/
theorem pEventQueuesOrRefuses : Obligations.PEventQueuesOrRefuses := by
  intro s kind n tail hle
  exact ⟨fun hne => if_neg (by omega), fun heq => if_pos heq.ge⟩

/-! ### Stealing -/

theorem feq_iff (x y : F32) : feq x y = true ↔ (fIsNaN x = false ∧ fIsNaN y = false) ∧ fVal x = fVal y := by
  simp [feq, fOrdered]

/-- The place of Voice `v` in the stealing order: level, then timestamp, then index (rule R252). -/
def State.stealKey (s : State) (v : Nat) : Int ×ₗ Nat ×ₗ Nat :=
  toLex (fVal (s.voice v).env.level, toLex ((s.voice v).ts.toNat, v))

section
variable {s : State} {u v : Nat}

theorem stealsBefore_iff (hu : fIsNaN (s.voice u).env.level = false) (hv : fIsNaN (s.voice v).env.level = false) :
    StealsBefore (s.voice u) u (s.voice v) v ↔ s.stealKey u < s.stealKey v := by
  simp [StealsBefore, State.stealKey, Prod.Lex.toLex_lt_toLex, flt_iff, feq_iff, hu, hv, BitVec.toNat_inj]

/-- A later Voice takes over the candidate exactly when it comes first in the stealing order: on a full tie the lower
index stays. -/
theorem stealsOver_iff (hu : fIsNaN (s.voice u).env.level = false) (hv : fIsNaN (s.voice v).env.level = false)
    (h : u < v) : stealsOver (s.voice v) (s.voice u) = true ↔ s.stealKey v < s.stealKey u := by
  simp [stealsOver, State.stealKey, Prod.Lex.toLex_lt_toLex, flt_iff, feq_iff, hu, hv, h.not_gt]

end

/-- One step of the scan of `StealChoice` (rule R252). -/
def State.stealStep (s : State) (best v : Nat) : Nat :=
  if stealsOver (s.voice v) (s.voice best) then v else best

/-- The scan of an ascending list of Voices ends with the first of them in the stealing order. -/
theorem foldl_stealStep_least {s : State} {b : Nat} {l : List Nat} (hl : (b :: l).Pairwise (· < ·))
    (hnan : ∀ v ∈ b :: l, fIsNaN (s.voice v).env.level = false) :
    l.foldl s.stealStep b ∈ b :: l
      ∧ ∀ v ∈ b :: l, v ≠ l.foldl s.stealStep b → s.stealKey (l.foldl s.stealStep b) < s.stealKey v := by
  induction l using List.reverseRecOn with
  | nil => exact ⟨List.mem_singleton_self b, fun v hv hne => absurd (List.mem_singleton.1 hv) hne⟩
  | append_singleton l w ih =>
    rw [← List.cons_append] at hl hnan ⊢
    obtain ⟨hl, -, hlast⟩ := List.pairwise_append.1 hl
    obtain ⟨hmem, hleast⟩ := ih hl fun v hv => hnan v (List.mem_append_left _ hv)
    rw [List.foldl_append, List.foldl_cons, List.foldl_nil]
    generalize l.foldl s.stealStep b = r at hmem hleast ⊢
    have hrw : r < w := hlast r hmem w (List.mem_singleton_self w)
    have hover := stealsOver_iff (hnan r (List.mem_append_left _ hmem)) (hnan w (by simp)) hrw
    unfold State.stealStep
    by_cases h : s.stealKey w < s.stealKey r
    · rw [if_pos (hover.2 h)]
      refine ⟨by simp, fun v hv hne => ?_⟩
      have hv := (List.mem_append.1 hv).resolve_right (by simpa using hne)
      by_cases hvr : v = r
      · exact hvr ▸ h
      · exact h.trans (hleast v hv hvr)
    · rw [if_neg (mt hover.1 h)]
      refine ⟨List.mem_append_left _ hmem, fun v hv hne => ?_⟩
      rcases List.mem_append.1 hv with hv | hv
      · exact hleast v hv hne
      · rw [List.mem_singleton.1 hv]
        refine lt_of_le_of_ne (not_lt.1 h) fun heq => hrw.ne ?_
        exact congrArg (fun k => (ofLex (ofLex k).2).2) heq

theorem stealCandidates_ascending (s : State) : (stealCandidates s).Pairwise (· < ·) := by
  unfold stealCandidates
  simp only
  split
  · exact List.pairwise_lt_range
  · exact List.pairwise_lt_range.filter _

/-- The candidates: every Voice, or every Voice in Release if there is one (rule R252). -/
theorem mem_stealCandidates (s : State) (u : Nat) :
    u ∈ stealCandidates s ↔ u < s.cfg.nvoices
      ∧ ((∃ w, w < s.cfg.nvoices ∧ (s.voice w).env.stage = .release) → (s.voice u).env.stage = .release) := by
  unfold stealCandidates
  simp only [List.isEmpty_iff, List.filter_eq_nil_iff, List.mem_range, decide_eq_true_eq]
  split
  · next hnone =>
    simp only [List.mem_range, iff_self_and]
    rintro - ⟨w, hw, hst⟩
    exact absurd hst (hnone w hw)
  · next hsome =>
    push Not at hsome
    simp [hsome]

theorem stealChoice_least {s : State} (hpos : 1 ≤ s.cfg.nvoices)
    (hnan : ∀ v, v < s.cfg.nvoices → fIsNaN (s.voice v).env.level = false) :
    stealChoice s ∈ stealCandidates s
      ∧ ∀ v ∈ stealCandidates s, v ≠ stealChoice s → s.stealKey (stealChoice s) < s.stealKey v := by
  have hasc := stealCandidates_ascending s
  have hlevel : ∀ v ∈ stealCandidates s, fIsNaN (s.voice v).env.level = false :=
    fun v hv => hnan v ((mem_stealCandidates s v).1 hv).1
  unfold stealChoice
  split
  · next hnil =>
    have hmem := mem_stealCandidates s
    simp only [hnil, List.not_mem_nil, false_iff, not_and, not_forall] at hmem
    obtain ⟨⟨w, hw, hst⟩, -⟩ := hmem 0 hpos
    exact absurd hst (hmem w hw).2
  · next b l hcons =>
    rw [hcons] at hasc hlevel ⊢
    exact foldl_stealStep_least hasc hlevel

theorem State.voice_mem {s : State} {v : Nat} (h : v < s.voices.length) : s.voice v ∈ s.voices := by
  rw [State.voice, List.getD_eq_getElem _ _ h]
  exact List.getElem_mem h

/-- Settles O42, from the scan of the candidates. -/
theorem stealChoiceIsLeast : Obligations.StealChoiceIsLeast := by
  intro s hpos hlen hlevels inRelease b
  have hnan : ∀ v, v < s.cfg.nvoices → fIsNaN (s.voice v).env.level = false := fun v hv =>
    hlevels _ (State.voice_mem (hlen ▸ hv))
  obtain ⟨hmem, hleast⟩ := stealChoice_least hpos hnan
  obtain ⟨hb, hrel⟩ := (mem_stealCandidates s b).1 hmem
  refine ⟨hb, fun h => ⟨hb, hrel h⟩, fun u hu hne hu' => ?_⟩
  refine (stealsBefore_iff (hnan b hb) (hnan u hu)).2 (hleast u ?_ hne)
  exact (mem_stealCandidates s u).2 ⟨hu, fun h => (hu' h).2⟩

end Sys2Proof.Machine

/-! ## The block sequence of `P.RENDER` -/

namespace Sys2Proof.Machine

/-! ### What the block keeps of a Voice -/

/-- The Voice holds the seven per-Voice parameters of `p` (rule R256). -/
def Voice.HasParams (c : Config) (p : Params) (x : Voice) : Prop :=
  x.osc.wave = waveFromIndex c p.waveform ∧ x.flt.cutoff = p.cutoff ∧ x.flt.q = p.resonance
  ∧ x.env.a = p.attack ∧ x.env.d = p.decay ∧ x.env.s = p.sustain ∧ x.env.r = p.release

/-- Whatever parameters the Voice held it still holds. -/
def Voice.KeepsParams (x y : Voice) : Prop := ∀ c p, x.HasParams c p → y.HasParams c p

theorem Voice.KeepsParams.refl (x : Voice) : Voice.KeepsParams x x := fun _ _ => id

theorem Voice.KeepsParams.trans (x y z : Voice) (h : Voice.KeepsParams x y) (k : Voice.KeepsParams y z) :
    Voice.KeepsParams x z :=
  fun c p => k c p ∘ h c p

/-- The Voice renders as many channels as before, or none as before. -/
structure Voice.SameChannels (x y : Voice) : Prop where
  ready : y.ready = x.ready
  nchan : y.flt.nchan = x.flt.nchan
  pairs : ∀ n, x.flt.HasPairs n → y.flt.HasPairs n

theorem Voice.SameChannels.refl (x : Voice) : Voice.SameChannels x x := ⟨rfl, rfl, fun _ => id⟩

theorem Voice.SameChannels.trans (x y z : Voice) (h : Voice.SameChannels x y) (k : Voice.SameChannels y z) :
    Voice.SameChannels x z :=
  ⟨k.ready.trans h.ready, k.nchan.trans h.nchan, fun n => k.pairs n ∘ h.pairs n⟩

theorem Voice.SameChannels.of_rendered {x y : Voice} (h : Voice.Rendered x y) : Voice.SameChannels x y := by
  obtain ⟨a, b, hf, ha, hb⟩ := h.flt
  refine ⟨h.ready, h.nchan, fun n hn => ?_⟩
  obtain ⟨h1, h2⟩ := hn
  rw [hf]
  exact ⟨ha.trans h1, hb.trans h2⟩

theorem Voice.sameChannels_stopped (tail : Bool) (x : Voice) : Voice.SameChannels x (x.stopped tail) := by
  by_cases hst : x.env.stage = .idle
  · rw [Voice.stopped_idle hst]
    exact ⟨rfl, rfl, fun _ => id⟩
  · rw [Voice.stopped_sounding hst]
    cases tail <;> exact ⟨rfl, rfl, fun _ => id⟩

theorem Voice.keepsParams_stopped (tail : Bool) (x : Voice) : Voice.KeepsParams x (x.stopped tail) := by
  by_cases hst : x.env.stage = .idle
  · rw [Voice.stopped_idle hst]
    exact fun _ _ => id
  · rw [Voice.stopped_sounding hst]
    cases tail <;> exact fun _ _ => id

theorem envNext_params (m : Fp) (e : Env) :
    (envNext m e).a = e.a ∧ (envNext m e).d = e.d ∧ (envNext m e).s = e.s ∧ (envNext m e).r = e.r := by
  cases h : e.stage with
  | idle => rw [envNext_idle m h]; exact ⟨rfl, rfl, rfl, rfl⟩
  | sustain => rw [envNext_sustain m h]; exact ⟨rfl, rfl, rfl, rfl⟩
  | attack => rw [envNext_attack m h]; simp only [envAttack]; split_ifs <;> exact ⟨rfl, rfl, rfl, rfl⟩
  | decay => rw [envNext_decay m h]; simp only [envDecay]; split <;> exact ⟨rfl, rfl, rfl, rfl⟩
  | release => rw [envNext_release m h]; simp only [envRelease]; split <;> exact ⟨rfl, rfl, rfl, rfl⟩

/-- Sounding moves the phase, and the stage and the level of the envelope. -/
theorem State.sound_params (s : State) (m : Fp) (v start k : Nat) :
    (s.sound m v start k).1.wave = (s.voice v).osc.wave
    ∧ (s.sound m v start k).2.a = (s.voice v).env.a ∧ (s.sound m v start k).2.d = (s.voice v).env.d
    ∧ (s.sound m v start k).2.s = (s.voice v).env.s ∧ (s.sound m v start k).2.r = (s.voice v).env.r := by
  induction k with
  | zero => exact ⟨rfl, rfl, rfl, rfl, rfl⟩
  | succ k ih =>
    obtain ⟨hw, ha, hd, hs, hr⟩ := ih
    obtain ⟨ha', hd', hs', hr'⟩ := envNext_params ((m.sub (start + k)).sub 1) (s.sound m v start k).2
    exact ⟨hw, ha'.trans ha, hd'.trans hd, hs'.trans hs, hr'.trans hr⟩

theorem RenderStages.keepsParams {m : Fp} {v start num w : Nat} {d : Nat → Nat → F32} {s s2 s3 t : State}
    (h : RenderStages m v start num w d s s2 s3 t) (hv : v < s.voices.length) :
    Voice.KeepsParams (s.voice v) (t.voice v) := by
  rintro c p ⟨hw, hcutoff, hq, ha, hd, hs, hr⟩
  obtain ⟨hw', ha', hd', hs', hr'⟩ := s.sound_params (m.sub 0) v start w
  obtain ⟨a, b, hab⟩ := h.voice hv
  rw [hab]
  exact ⟨hw'.trans hw, hcutoff, hq, ha'.trans ha, hd'.trans hd, hs'.trans hs, hr'.trans hr⟩

/-! ### Voices of two states -/

theorem EachVoice.congr {R : Voice → Voice → Prop} {s t u : State} (h : EachVoice R s t) (hv : u.voices = t.voices) :
    EachVoice R s u :=
  ⟨by rw [hv, h.length], fun v y hy => h.rel v y (hv ▸ hy)⟩

theorem EachVoice.of_voiceFrame {R : Voice → Voice → Prop} (hR : ∀ x, R x x) {v : Nat} {s t : State}
    (h : VoiceFrame v s t) (hv : R (s.voice v) (t.voice v)) : EachVoice R s t := by
  obtain ⟨hlen, hothers⟩ := h.others
  refine ⟨hlen, fun u y hy => ?_⟩
  by_cases hu : u = v
  · subst hu
    have hlt : u < s.voices.length := hlen ▸ (List.getElem?_eq_some_iff.1 hy).1
    refine ⟨s.voice u, ?_, ?_⟩
    · simp [State.voice, List.getD_eq_getElem?_getD, hlt]
    · simpa [State.voice, List.getD_eq_getElem?_getD, hy] using hv
  · exact ⟨y, hothers u hu ▸ hy, hR y⟩

theorem EachVoice.hasParams {s t : State} (h : EachVoice Voice.KeepsParams s t) {c : Config} {p : Params}
    (hs : ∀ x ∈ s.voices, x.HasParams c p) : ∀ x ∈ t.voices, x.HasParams c p := by
  intro y hy
  obtain ⟨x, hx, hk⟩ := h.of_mem hy
  exact hk c p (hs x hx)

/-! ### Dispatching the events -/

/-- What starting and stopping notes leaves alone: everything but the Voices and the counter; of a Voice, its channels
and its parameters (rules R220, R224, R254). -/
structure NotesFrame (s t : State) : Prop where
  rest     : t = { s with voices := t.voices, pool := { s.pool with tsctr := t.pool.tsctr } }
  channels : EachVoice Voice.SameChannels s t
  params   : EachVoice Voice.KeepsParams s t

namespace NotesFrame

theorem refl (s : State) : NotesFrame s s :=
  ⟨rfl, .of_voices_eq Voice.SameChannels.refl rfl, .of_voices_eq Voice.KeepsParams.refl rfl⟩

theorem trans {s t u : State} (h : NotesFrame s t) (k : NotesFrame t u) : NotesFrame s u where
  rest := by
    have hu := k.rest
    rw [h.rest] at hu
    exact hu
  channels := h.channels.trans Voice.SameChannels.trans k.channels
  params := h.params.trans Voice.KeepsParams.trans k.params

theorem setVoice (s : State) (v : Nat) (x : Voice) (hc : Voice.SameChannels (s.voice v) x)
    (hp : Voice.KeepsParams (s.voice v) x) : NotesFrame s (s.setVoice v x) :=
  ⟨rfl, .setVoice Voice.SameChannels.refl v x hc, .setVoice Voice.KeepsParams.refl v x hp⟩

theorem startNote (m : Fp) (v : Nat) (n : BitVec 7) (s : State) : NotesFrame s (startNote m v n s) where
  rest := rfl
  channels := (EachVoice.setVoice Voice.SameChannels.refl v ((s.voice v).started s.cfg m n s.pool.tsctr)
    ⟨rfl, rfl, fun _ => id⟩).congr rfl
  params := (EachVoice.setVoice Voice.KeepsParams.refl v ((s.voice v).started s.cfg m n s.pool.tsctr)
    fun _ _ => id).congr rfl

theorem allocNoteOn (m : Fp) (n : BitVec 7) (s : State) : NotesFrame s (allocNoteOn m n s) := by
  unfold Machine.allocNoteOn
  split
  · exact .startNote m _ n s
  · split
    · exact .startNote m _ n s
    · exact (setVoice s _ (s.voice _).cleared ⟨rfl, rfl, fun _ => id⟩ fun _ _ => id).trans (.startNote m _ n _)

theorem routeNoteOff (n : BitVec 7) (tail : Bool) (s : State) : NotesFrame s (routeNoteOff n tail s) := by
  unfold Machine.routeNoteOff
  split
  · exact .setVoice s _ _ (Voice.sameChannels_stopped tail _) (Voice.keepsParams_stopped tail _)
  · exact .refl s

theorem dispatchEvent (m : Fp) (e : EventRec) (s : State) : NotesFrame s (dispatchEvent m e s) := by
  unfold Machine.dispatchEvent
  split
  · exact .allocNoteOn m _ s
  · exact .routeNoteOff _ _ s

theorem dispatchList (m : Fp) (i : Nat) (l : List EventRec) (s : State) : NotesFrame s (dispatchList m i l s) := by
  induction l generalizing i s with
  | nil => exact .refl s
  | cons e l ih => exact (dispatchEvent (m.sub i) e s).trans (ih (i + 1) _)

end NotesFrame

/-! ### Before the first Voice renders -/

theorem Params.ext_get {p q : Params} (h : ∀ k, p.get k = q.get k) : p = q := by
  cases p
  cases q
  simpa [Params.get, Fin.forall_fin_succ] using h

/-- While the control host is quiet the latch takes the parameters as they are (rule R257). -/
theorem latchSnapshot_snap_quiet {s : State} (h : s.during = []) : (latchSnapshot s).snap = s.params :=
  Params.ext_get fun k => (latchTakesOldOrNewValue s k).2.1 (by simp [h])

theorem applySnapshot_sameChannels (s : State) : EachVoice Voice.SameChannels s (applySnapshot s) :=
  eachUp_keeps (EachVoice Voice.SameChannels s) _ _ _ s
    (fun v _ _ _ ht => ht.trans Voice.SameChannels.trans
      (.setVoice Voice.SameChannels.refl v _ ⟨rfl, rfl, fun _ => id⟩))
    (.of_voices_eq Voice.SameChannels.refl rfl)

/-- `ApplySnapshot` reaches every Voice (rule R256). -/
theorem applySnapshot_hasParams {s : State} (h : s.voices.length = s.cfg.nvoices) :
    ∀ x ∈ (applySnapshot s).voices, x.HasParams s.cfg s.snap := by
  intro x hx
  have hup := applySnapshot_voicesUpdated h
  obtain ⟨v, hv, rfl⟩ := List.getElem_of_mem hx
  have hdone := hup.done v (by rwa [← h, ← hup.length])
  rw [State.voice, List.getD_eq_getElem _ _ hv] at hdone
  rw [hdone]
  exact ⟨rfl, rfl, rfl, rfl, rfl, rfl, rfl⟩

/-- From `s` to the state `u` in which the first Voice renders: the parameters are latched, as they are in `l`, and
applied, the queue is empty, and only the Voices and the counter have changed besides. -/
structure RenderBegins (l s u : State) : Prop where
  rest     : u = { s with
    params := l.params, snap := l.snap, during := l.during,
    voices := u.voices, pool := { s.pool with tsctr := u.pool.tsctr }, events := [] }
  channels : EachVoice Voice.SameChannels s u
  params   : ∀ x ∈ u.voices, x.HasParams s.cfg u.snap

namespace RenderBegins

variable {l s u : State} (h : RenderBegins l s u)
include h

theorem cfg : u.cfg = s.cfg := by rw [h.rest]

theorem pool : u.pool = { s.pool with tsctr := u.pool.tsctr } := congrArg State.pool h.rest

theorem mem (sp : Space) : u.mem sp = s.mem sp := by
  rw [h.rest]
  cases sp <;> rfl

end RenderBegins

theorem VoicesUpdated.snap {F : Nat → Voice → Voice} {s t : State} {n : Nat} (h : VoicesUpdated F s n t) :
    t.snap = s.snap := by rw [h.rest]

theorem NotesFrame.snap {s t : State} (h : NotesFrame s t) : t.snap = s.snap := by rw [h.rest]

/-- Only the Voices were written before the queue is emptied and its events are dispatched. -/
theorem NotesFrame.rest_of_voices {s t u : State} (ht : t = { s with voices := t.voices })
    (h : NotesFrame { t with events := [] } u) :
    u = { s with voices := u.voices, pool := { s.pool with tsctr := u.pool.tsctr }, events := [] } := by
  have hrest := h.rest
  generalize t.voices = vs at ht
  subst ht
  exact hrest

theorem LatchFrame.rest_of_notes {s t u : State} (h : LatchFrame s t)
    (hu : u = { t with voices := u.voices, pool := { t.pool with tsctr := u.pool.tsctr }, events := [] }) :
    u = { s with
      params := t.params, snap := t.snap, during := t.during,
      voices := u.voices, pool := { s.pool with tsctr := u.pool.tsctr }, events := [] } := by
  rw [h.others] at hu
  exact hu

theorem atRender_begins (m : Fp) {s : State} (h : s.voices.length = s.cfg.nvoices) :
    RenderBegins (latchSnapshot s) s (s.atRender m) := by
  have hlatch := latchSnapshot_latchFrame s
  have hvoices : (latchSnapshot s).voices = s.voices := by rw [hlatch.others]
  have hcfg : (latchSnapshot s).cfg = s.cfg := by rw [hlatch.others]
  have hlen : (latchSnapshot s).voices.length = (latchSnapshot s).cfg.nvoices := by rw [hvoices, hcfg, h]
  have happly := applySnapshot_voicesUpdated hlen
  have hchannels := (EachVoice.of_voices_eq Voice.SameChannels.refl hvoices).trans Voice.SameChannels.trans
    (applySnapshot_sameChannels (latchSnapshot s))
  have hparams := applySnapshot_hasParams hlen
  have hdispatch : NotesFrame { applySnapshot (latchSnapshot s) with events := [] } (s.atRender m) :=
    .dispatchList (m.sub 0) 0 _ _
  generalize s.atRender m = u at hdispatch ⊢
  generalize applySnapshot (latchSnapshot s) = t at happly hchannels hparams hdispatch
  constructor
  case rest => exact hlatch.rest_of_notes (NotesFrame.rest_of_voices happly.rest hdispatch)
  case channels =>
    exact (hchannels.congr (u := { t with events := [] }) rfl).trans Voice.SameChannels.trans hdispatch.channels
  case params =>
    rw [hdispatch.snap, happly.snap, ← hcfg]
    exact hdispatch.params.hasParams hparams

/-! ### The block that can be rendered -/

/-- The channels of a render so far, with those of one more Voice. -/
def Voice.moreChans (k : Nat) (x : Voice) : Nat := if x.ready then max k x.flt.nchan.toNat else k

theorem foldl_moreChans (l : List Voice) (k : Nat) :
    k ≤ l.foldl Voice.moreChans k
    ∧ (∀ x ∈ l, x.ready = true → x.flt.nchan.toNat ≤ l.foldl Voice.moreChans k)
    ∧ ∀ cap, k ≤ cap → (∀ x ∈ l, x.flt.nchan.toNat ≤ cap) → l.foldl Voice.moreChans k ≤ cap := by
  induction l generalizing k with
  | nil => exact ⟨le_rfl, by simp, fun _ h _ => h⟩
  | cons x l ih =>
    obtain ⟨hk, hl, hcap⟩ := ih (Voice.moreChans k x)
    have hle : k ≤ Voice.moreChans k x := by unfold Voice.moreChans; split <;> omega
    refine ⟨hle.trans hk, fun y hy hready => ?_, fun cap hkc hlc => hcap cap ?_ fun y hy => hlc y (.tail _ hy)⟩
    · rcases List.mem_cons.1 hy with rfl | hy
      · refine le_trans ?_ hk
        simp [Voice.moreChans, hready]
      · exact hl y hy hready
    · have := hlc x (.head _)
      unfold Voice.moreChans
      split <;> omega

theorem State.renderChans_eq (s : State) : s.renderChans = s.voices.foldl Voice.moreChans s.pool.nchan.toNat := rfl

/-- What a block of `nc` channels and `num` samples needs to be rendered: it lies in the memories and `DEST` holds
values there, and no channel of the pool or of a ready Voice is outside it. -/
structure State.BlockReady (nc num : Nat) (s : State) : Prop where
  fits    : RegionFits s.cfg nc 0 num
  pool    : s.pool.nchan.toNat ≤ nc
  pairs   : ∀ v, (s.voice v).flt.HasPairs s.cfg.capChan
  chans   : ∀ v, (s.voice v).ready = true → (s.voice v).flt.nchan.toNat ≤ nc
  written : ∀ c i, c < nc → i < num → s.dest.read (sampleAddr s.cfg c i) ≠ none

namespace State.BlockReady

variable {nc num : Nat} {s t : State}

theorem of_inv (h : s.Inv) (hnum : num ≤ s.pool.maxblock.toNat)
    (hw : s.regionWritten .dest s.renderChans 0 num = true) : s.BlockReady s.renderChans num := by
  obtain ⟨-, -, hvoices, hpool, -⟩ := (State.inv_iff s).1 h
  obtain ⟨hmax, hchan⟩ := Pool.wf_sizes hpool
  obtain ⟨hle, hready, hcap⟩ := foldl_moreChans s.voices s.pool.nchan.toNat
  rw [← State.renderChans_eq] at hle hready hcap
  constructor
  case fits => exact ⟨hcap _ hchan fun x hx => (Voice.wf_sizes (hvoices x hx)).2, by omega⟩
  case pool => exact hle
  case pairs => exact h.hasPairs
  case chans =>
    intro v hv
    by_cases hlt : v < s.voices.length
    · exact hready _ (State.voice_mem hlt) hv
    · rw [State.voice, List.getD_eq_default _ _ (not_lt.1 hlt)] at hv
      cases hv
  case written =>
    intro c i hc hi hnone
    obtain ⟨w, hread⟩ := (s.regionWritten_iff .dest _ 0 num).1 hw c i hc hi
    rw [Nat.zero_add] at hread
    exact absurd (hread.symm.trans hnone) (by simp)

theorem of_sameChannels (h : s.BlockReady nc num) (hcfg : t.cfg = s.cfg) (hpool : t.pool.nchan = s.pool.nchan)
    (hv : EachVoice Voice.SameChannels s t) (hw : ∀ a, t.dest.read a = none → s.dest.read a = none) :
    t.BlockReady nc num where
  fits := hcfg ▸ h.fits
  pool := hpool ▸ h.pool
  pairs v := by
    rw [hcfg]
    exact (hv.voice Voice.SameChannels.refl hcfg v).pairs _ (h.pairs v)
  chans v hr := by
    have hc := hv.voice Voice.SameChannels.refl hcfg v
    rw [hc.nchan]
    exact h.chans v (hc.ready ▸ hr)
  written c i hc hi hnone := h.written c i hc hi (hw _ (hcfg ▸ hnone))

theorem of_begins {l : State} (h : s.BlockReady nc num) (hb : RenderBegins l s t) : t.BlockReady nc num := by
  refine h.of_sameChannels hb.cfg (by rw [hb.pool]) hb.channels fun a ha => ?_
  have hread : (t.mem .dest).read a = none := ha
  rwa [hb.mem] at hread

theorem of_renderFrame (h : s.BlockReady nc num) (hf : RenderFrame s t) : t.BlockReady nc num :=
  h.of_sameChannels hf.cfg (by rw [hf.pool]) (hf.voices.imp fun _ _ => .of_rendered) (hf.written .dest)

end State.BlockReady

/-! ### The Voices render -/

theorem SameMemOutside.mono {sp : Space} {nc nc' start num num' : Nat} {s t : State} (hc : nc ≤ nc') (hn : num ≤ num')
    (h : SameMemOutside sp nc start num s t) : SameMemOutside sp nc' start num' s t :=
  fun a ha => h a fun c i hci h1 h2 => ha c i (by omega) h1 (by omega)

theorem SameMemOutside.trans {sp : Space} {nc start num : Nat} {s t u : State} (hcfg : t.cfg = s.cfg)
    (h : SameMemOutside sp nc start num s t) (k : SameMemOutside sp nc start num t u) :
    SameMemOutside sp nc start num s u :=
  fun a ha => (k a (by rwa [hcfg])).trans (h a ha)

/-- What rendering a block of `nc` channels and `num` samples leaves alone: what every render does, the Voices'
parameters, and the samples outside the block. -/
structure BlockFrame (nc num : Nat) (s t : State) : Prop where
  frame  : RenderFrame s t
  params : EachVoice Voice.KeepsParams s t
  dest   : SameMemOutside .dest nc 0 num s t
  scr    : SameMemOutside .scr nc 0 num s t

theorem BlockFrame.refl (nc num : Nat) (s : State) : BlockFrame nc num s s :=
  ⟨.refl s, .of_voices_eq Voice.KeepsParams.refl rfl, fun _ _ => rfl, fun _ _ => rfl⟩

theorem BlockFrame.trans {nc num : Nat} {s t u : State} (h : BlockFrame nc num s t) (k : BlockFrame nc num t u) :
    BlockFrame nc num s u :=
  ⟨h.frame.trans k.frame, h.params.trans Voice.KeepsParams.trans k.params, h.dest.trans h.frame.cfg k.dest,
    h.scr.trans h.frame.cfg k.scr⟩

theorem RenderStages.blockFrame {m : Fp} {v nc num w : Nat} {d : Nat → Nat → F32} {s s2 s3 t : State}
    (h : RenderStages m v 0 num w d s s2 s3 t) (hv : v < s.voices.length) (hc : (s.voice v).flt.nchan.toNat ≤ nc) :
    BlockFrame nc num s t where
  frame := (renderVoice_runs m v 0 num s).ok h.runs
  params := .of_voiceFrame Voice.KeepsParams.refl (renderVoice_frame m v 0 num s t h.runs) (h.keepsParams hv)
  dest := h.dest_outside.mono hc h.len_le
  scr := h.scr_outside.mono hc le_rfl

theorem renderIfReady_inactive (m : Fp) (num : Nat) {v : Nat} {s : State} (h : (s.voice v).active = false) :
    renderIfReady m num v s = .ok s := by
  rw [renderIfReady, renderVoice_inactive m 0 num h, ite_self]

/-- One pass of the Voice loop of `P.RENDER` succeeds (rule R259). -/
theorem renderIfReady_ok (m : Fp) {nc num v : Nat} {s : State} (h : s.BlockReady nc num) (hv : v < s.voices.length) :
    ∃ t, renderIfReady m num v s = .ok t ∧ BlockFrame nc num s t := by
  cases hready : (s.voice v).ready with
  | false => exact ⟨s, by simp [renderIfReady, hready], .refl nc num s⟩
  | true =>
    cases hactive : (s.voice v).active with
    | false => exact ⟨s, renderIfReady_inactive m num hactive, .refl nc num s⟩
    | true =>
      have hc := h.chans v hready
      obtain ⟨w, s2, s3, t, hst⟩ := renderVoice_stages m (start := 0) (num := num)
        (d := fun c i => (s.dest.read (sampleAddr s.cfg c i)).getD fZero) hv hactive (h.pairs v)
        ⟨hc.trans h.fits.1, h.fits.2⟩ fun c i hi => by
          obtain ⟨x, hx⟩ := Option.ne_none_iff_exists'.1 (h.written c i (hi.1.trans_le hc) (by simpa using hi.2.2))
          rw [hx]
          rfl
      exact ⟨t, by rw [renderIfReady, if_pos hready, hst.runs], hst.blockFrame hv hc⟩

/-- The states between the passes of a loop that ends without a fault. -/
theorem forUp_trace {σ : Type} {f : Nat → σ → Except Fault σ} {start n : Nat} {s t : σ}
    (h : forUp start n f s = .ok t) :
    ∃ r : Nat → σ, r 0 = s ∧ r n = t ∧ ∀ i, i < n → f (start + i) (r i) = .ok (r (i + 1)) := by
  induction n generalizing start s with
  | zero => exact ⟨fun _ => s, rfl, Except.ok.inj h, fun i hi => absurd hi i.not_lt_zero⟩
  | succ n ih =>
    simp only [forUp] at h
    split at h
    · next u hu =>
      obtain ⟨r, h0, hn, hr⟩ := ih h
      refine ⟨fun | 0 => s | i + 1 => r i, rfl, hn, fun i hi => ?_⟩
      cases i with
      | zero => exact hu.trans (congrArg _ h0.symm)
      | succ i =>
        have := hr i (by omega)
        rwa [Nat.succ_add_eq_add_succ] at this
    · cases h

/-- The Voice loop of `P.RENDER` succeeds (rule R259). -/
theorem renderVoices_ok (m : Fp) {nc num n : Nat} {s : State} (h : s.BlockReady nc num) (hn : n ≤ s.voices.length) :
    ∃ t, forUp 0 n (fun v => renderIfReady (m.sub v) num v) s = .ok t ∧ BlockFrame nc num s t := by
  refine forUp_ok (BlockFrame nc num s) _ n 0 s (fun v u _ hv hu => ?_) (.refl nc num s)
  obtain ⟨t, ht, hf⟩ := renderIfReady_ok (m.sub v) (h.of_renderFrame hu.frame)
    (show v < u.voices.length by rw [hu.frame.voices.length]; omega)
  exact ⟨t, ht, hu.trans hf⟩

/-! ### The master gain -/

/-- Each sample of the block is multiplied once by `S[7]` (rules R259, R260). -/
theorem masterGain_writes (m : Fp) {num : Nat} {d : Nat → Nat → F32} {s : State}
    (hfits : RegionFits s.cfg s.pool.nchan.toNat 0 num)
    (hd : ∀ c i, c < s.pool.nchan.toNat → i < num → s.dest.read (sampleAddr s.cfg c i) = some (d c i)) :
    ∃ t, masterGain m num s = .ok t
      ∧ Writes .dest (InRegion s.pool.nchan.toNat 0 num) (fun c i => fmul ((m.sub c).sub i) (d c i) s.snap.masterVol)
          s t := by
  have h := forRegion_writes (sp := .dest) (y := fun c i => fmul ((m.sub c).sub i) (d c i) s.snap.masterVol) hfits
    (fun c i => memUpdate .dest c i fun x => fmul ((m.sub c).sub i) x s.snap.masterVol)
    fun c i u hc _ hi hrest hread => ?_
  · rwa [Nat.zero_add] at h
  · have hcfg : u.cfg = s.cfg := by rw [hrest, State.setMem_cfg]
    rw [memUpdate_eq (x := d c i)]
    rw [memRead_ok_iff, hcfg, hread]
    exact ⟨hfits.sampleExists hc hi, hd c i hc (by omega)⟩

theorem renderBlock_ok {m : Fp} {num : Nat} {s u t : State}
    (hu : forUp 0 (s.atRender m).cfg.nvoices (fun v => renderIfReady ((m.sub 1).sub v) num v) (s.atRender m) = .ok u)
    (ht : masterGain (m.sub 2) num u = .ok t) : renderBlock m num s = .ok t := by
  unfold State.atRender at hu
  simp only [renderBlock, hu, ht]

theorem exec_pRender {s t : State} (hready : s.pool.ready = true) (hnum : s.a0.toNat ≤ s.pool.maxblock.toNat)
    (h : renderBlock s.fp s.a0.toNat s = .ok t) : exec .pRender s = .next t := by
  rw [exec, execPRender, if_neg (by simp [hready]), if_neg hnum.not_gt, h]
  rfl

/-- A block that is ready completes; `r v` is the state before Voice `v` renders (rule R259). -/
theorem renderBlock_completes (m : Fp) {nc num : Nat} {s : State} (hlen : s.voices.length = s.cfg.nvoices)
    (h : s.BlockReady nc num) :
    ∃ (t : State) (r : Nat → State) (d : Nat → Nat → F32), renderBlock m num s = .ok t
      ∧ r 0 = s.atRender m
      ∧ (∀ v, v < s.cfg.nvoices → renderIfReady ((m.sub 1).sub v) num v (r v) = .ok (r (v + 1)))
      ∧ BlockFrame nc num (s.atRender m) (r s.cfg.nvoices)
      ∧ (∀ c i, c < s.pool.nchan.toNat → i < num →
          (r s.cfg.nvoices).dest.read (sampleAddr s.cfg c i) = some (d c i))
      ∧ Writes .dest (InRegion s.pool.nchan.toNat 0 num)
          (fun c i => fmul (((m.sub 2).sub c).sub i) (d c i) (r s.cfg.nvoices).snap.masterVol) (r s.cfg.nvoices) t := by
  have hb := atRender_begins m hlen
  have hcfg := hb.cfg
  obtain ⟨u, hu, hf⟩ := renderVoices_ok (m.sub 1) (n := s.cfg.nvoices) (h.of_begins hb)
    (by rw [hb.channels.length, hlen])
  obtain ⟨r, h0, rfl, hr⟩ := forUp_trace hu
  have hready := (h.of_begins hb).of_renderFrame hf.frame
  have hcfg' : (r s.cfg.nvoices).cfg = s.cfg := hf.frame.cfg.trans hcfg
  have hnchan : (r s.cfg.nvoices).pool.nchan = s.pool.nchan := by rw [hf.frame.pool, hb.pool]
  have hd : ∀ c i, c < s.pool.nchan.toNat → i < num →
      ∃ d, (r s.cfg.nvoices).dest.read (sampleAddr s.cfg c i) = some d := fun c i hc hi =>
    Option.ne_none_iff_exists'.1 (by simpa only [hcfg'] using hready.written c i (hc.trans_le h.pool) hi)
  choose! d hd using hd
  obtain ⟨t, ht, hw⟩ := masterGain_writes (m.sub 2) (num := num) (d := d) (s := r s.cfg.nvoices)
    ⟨hready.pool.trans hready.fits.1, hready.fits.2⟩ (by rwa [hnchan, hcfg'])
  rw [hnchan] at hw
  refine ⟨t, r, d, renderBlock_ok (by rwa [hcfg]) ht, h0, fun v hv => ?_, hf, hd, hw⟩
  simpa using hr v hv

/-- A queued record acts as `P.NOTEON` or `P.NOTEOFF` (rule R258). -/
theorem dispatchEvent_acts (m : Fp) (e : EventRec) (s : State) :
    (e.kind = .noteOn → exec (.pNoteon e.note) s = .next (dispatchEvent s.fp e s))
    ∧ (e.kind = .noteOff → exec (.pNoteoff e.note e.tail) s = .next (dispatchEvent m e s)) := by
  refine ⟨fun hk => ?_, fun hk => ?_⟩
  · rw [dispatchEvent, hk]
    rfl
  · rw [dispatchEvent, hk]
    rfl

/-- A ready Voice renders as `V.RENDER` does from sample 0 (rules R225, R259). -/
theorem renderIfReady_acts (m : Fp) (num : Nat) {s : State} {v : BitVec 8} (hv : s.voiceExists v = true) :
    ((s.voice v.toNat).ready = false → renderIfReady m num v.toNat s = .ok s)
    ∧ ((s.voice v.toNat).ready = true → renderIfReady m num v.toNat s = renderVoice m v.toNat 0 num s)
    ∧ ((s.voice v.toNat).ready = true → s.a0.toNat = 0 → s.a1.toNat = num →
        num ≤ (s.voice v.toNat).flt.maxblock.toNat →
        exec (.vRender v) s = finish (renderIfReady s.fp num v.toNat s)) := by
  refine ⟨fun hr => by simp [renderIfReady, hr], fun hr => if_pos hr, fun hr h0 h1 hlen => ?_⟩
  rw [exec, execVRender_guards hv, if_neg (by simp [hr]), if_neg (by omega), h0, h1, renderIfReady, if_pos hr]

theorem RenderFrame.rest {s t : State} (h : RenderFrame s t) :
    t = { s with voices := t.voices, dest := t.dest, scr := t.scr } := by
  obtain ⟨⟨hcmd, hbusy, herr, hcause, herrcmd⟩, ⟨h0, h1, h2, h3⟩, ⟨hparams, hsnap⟩, hmodel⟩ := h.host
  obtain ⟨hcfg, hmoves, hduring, hrdata, hdraws⟩ := hmodel
  have hr0 := h.r0
  have hpool := h.pool
  have hevents := h.events
  cases s
  cases t
  simp only at *
  simp only [*]

/-- All that `P.RENDER` leaves alone besides the Voices and the memories (rule R259). -/
theorem RenderBegins.rest_of_block {l s u t : State} (h : RenderBegins l s u) (hf : RenderFrame u t) :
    t = { s with
      params := l.params, snap := l.snap, during := l.during,
      voices := t.voices, pool := { s.pool with tsctr := u.pool.tsctr }, events := [],
      dest := t.dest, scr := t.scr } := by
  have ht := hf.rest
  rw [h.rest] at ht
  exact ht

/-- The parameters, the snapshot and the writes still to land are as the latch left them. -/
theorem RenderBegins.latched {l s u t : State} (h : RenderBegins l s u) (hf : RenderFrame u t) :
    t.params = l.params ∧ t.snap = l.snap ∧ t.during = l.during := by
  rw [h.rest_of_block hf]
  exact ⟨rfl, rfl, rfl⟩

theorem Writes.sameMemOutside {sp : Space} {nc num : Nat} {y : Nat → Nat → F32} {s t : State}
    (h : Writes sp (InRegion nc 0 num) y s t) : SameMemOutside sp nc 0 num s t :=
  fun a ha => h.outside a fun c i hi => hi.ne_of_outside ha (Nat.zero_add num).ge c i

/-- Settles O45: the block by `renderBlock_completes`; what is left alone, from the frames of its stages. -/
theorem pRenderCompletesBlock : Obligations.PRenderCompletesBlock := by
  refine ⟨fun s hs hready hnum hw => ?_, fun m u i e rest => ⟨rfl, rfl, rfl, dispatchEvent_acts m e u⟩,
    fun m num u v hv => renderIfReady_acts m num hv⟩
  obtain ⟨-, hlen, -⟩ := (State.inv_iff s).1 hs
  have hblock := State.BlockReady.of_inv hs hnum hw
  obtain ⟨t, r, d, ht, h0, hr, hf, hd, hgain⟩ := renderBlock_completes s.fp hlen hblock
  have hb := atRender_begins s.fp hlen
  have hframe := (renderBlock_runs s.fp s.a0.toNat s).ok ht
  have hrest := hb.rest_of_block hframe
  obtain ⟨hparams, hsnap, hduring⟩ := hb.latched hframe
  have hlatch := latchSnapshot_latchFrame s
  have hcfg := hf.frame.cfg.trans hb.cfg
  have hsame : t.snap = (r s.cfg.nvoices).snap := by rw [hgain.rest, State.setMem_snap]
  obtain ⟨-, -, ⟨-, hbegun⟩, -⟩ := hframe.host
  refine ⟨t, r, exec_pRender hready hnum ht, by rw [hrest], ?_, ?_, by rw [hrest], by rw [hrest], by rw [hrest],
    by rw [hrest], by rw [hrest], ?_, ?_, hsnap, fun hquiet => ?_, ?_, ?_, ?_, h0, hr, hgain.rest,
    hgain.sameMemOutside, fun c i hc hi => ⟨d c i, hd c i hc hi, ?_⟩⟩
  · rw [hrest]
    exact ⟨rfl, rfl, rfl, rfl, rfl⟩
  · rw [hrest]
    exact ⟨rfl, rfl, rfl, rfl⟩
  · rw [hframe.pool]
    exact hb.pool
  · exact hframe.voices.length.trans hb.channels.length
  · obtain ⟨hnone, hkept⟩ := hlatch.quiet hquiet
    exact ⟨hparams.trans hkept, hsnap.trans (latchSnapshot_snap_quiet hquiet), hduring.trans hnone⟩
  · intro a ha
    rw [hgain.sameMemOutside.mono hblock.pool le_rfl a (by rwa [hcfg]), hf.dest a (by rwa [hb.cfg]), hb.mem]
  · intro a ha
    rw [hgain.mem_other (by decide), hf.scr a (by rwa [hb.cfg]), hb.mem]
  · intro x hx
    rw [hgain.voices] at hx
    rw [hbegun]
    exact hf.params.hasParams hb.params x hx
  · rw [← hcfg, hsame]
    exact hgain.out c i ⟨hc, Nat.zero_le i, hi⟩

end Sys2Proof.Machine

/-! ## A silent block -/

namespace Sys2Proof.Machine

theorem State.voice_inactive {s : State} (h : ∀ x ∈ s.voices, x.active = false) (v : Nat) :
    (s.voice v).active = false := by
  by_cases hv : v < s.voices.length
  · exact h _ (State.voice_mem hv)
  · rw [State.voice, List.getD_eq_default _ _ (not_lt.1 hv)]
    rfl

theorem SameNotes.inactive {s t : State} (h : SameNotes s t) (hs : ∀ x ∈ s.voices, x.active = false) :
    ∀ x ∈ t.voices, x.active = false := by
  intro y hy
  obtain ⟨x, hx, hk⟩ := h.voices.of_mem hy
  exact Bool.eq_false_iff.2 fun hya => absurd (hk.active hya) (by simp [hs x hx])

/-- With no event queued none takes effect (rule R258). -/
theorem dispatchEvents_nil_voices (m : Fp) {s : State} (h : s.events = []) :
    (dispatchEvents m s).voices = s.voices := by
  rw [dispatchEvents, h]
  rfl

/-- With no event queued a block activates no Voice before it renders. -/
theorem atRender_inactive (m : Fp) {s : State} (he : s.events = []) (h : ∀ x ∈ s.voices, x.active = false) :
    ∀ x ∈ (s.atRender m).voices, x.active = false := by
  have hn := (latchSnapshot_latchFrame s).sameNotes.trans (applySnapshot_sameNotes (latchSnapshot s))
  rw [State.atRender, dispatchEvents_nil_voices _ (hn.events.trans he)]
  exact hn.inactive h

/-- A loop whose passes leave the state alone. -/
theorem forUp_unchanged {σ : Type} {f : Nat → σ → Except Fault σ} {s : σ} (h : ∀ i, f i s = .ok s) (start n : Nat) :
    forUp start n f s = .ok s := by
  induction n generalizing start with
  | zero => rfl
  | succ n ih => simp only [forUp, h, ih]

/-- `+0.0` times a finite number that is not negative is `+0.0`. -/
theorem fmul_fZero (m : Fp) {x : F32} (hfin : fIsFinite x = true) (hsign : fSign x = false) :
    fmul m fZero x = fZero := by
  rw [fmul_of_isZero m (by decide) hfin (.inl (by decide)), hsign]
  rfl

/-- Writing to the elements what they hold changes no word. -/
theorem Writes.sameMem {sp : Space} {done : Nat → Nat → Prop} {y : Nat → Nat → F32} {s t : State}
    (h : Writes sp done y s t) (hy : ∀ c i, done c i → (s.mem sp).read (sampleAddr s.cfg c i) = some (y c i)) :
    SameMem sp s t := by
  intro a
  by_cases ha : ∃ c i, done c i ∧ a = sampleAddr s.cfg c i
  · obtain ⟨c, i, hd, rfl⟩ := ha
    rw [h.out c i hd, hy c i hd]
  · exact h.outside a fun c i hd heq => ha ⟨c, i, hd, heq⟩

/-- Settles O46: no Voice renders, and the master gain multiplies silence. -/
theorem silentBlockStaysSilent : Obligations.SilentBlockStaysSilent := by
  intro s hs hready hnum hquiet he hfree hfin hsign hsilent
  obtain ⟨-, hlen, -, hpool, -⟩ := (State.inv_iff s).1 hs
  obtain ⟨hmax, hchan⟩ := Pool.wf_sizes hpool
  have hb := atRender_begins s.fp hlen
  have hinactive := atRender_inactive s.fp he hfree
  have hvoices : forUp 0 (s.atRender s.fp).cfg.nvoices
      (fun v => renderIfReady ((s.fp.sub 1).sub v) s.a0.toNat v) (s.atRender s.fp) = .ok (s.atRender s.fp) :=
    forUp_unchanged (fun v => renderIfReady_inactive _ _ (State.voice_inactive hinactive v)) _ _
  have hnchan : (s.atRender s.fp).pool.nchan = s.pool.nchan := by rw [hb.pool]
  have hread : ∀ c i, c < s.pool.nchan.toNat → i < s.a0.toNat →
      ((s.atRender s.fp).mem .dest).read (sampleAddr s.cfg c i) = some fZero := by
    rw [hb.mem]
    exact hsilent
  obtain ⟨t, ht, hgain⟩ := masterGain_writes (s.fp.sub 2) (num := s.a0.toNat) (d := fun _ _ => fZero)
    (s := s.atRender s.fp) (by rw [hb.cfg, hnchan]; exact ⟨hchan, by omega⟩) (by rwa [hb.cfg, hnchan])
  obtain ⟨-, hsnap, -⟩ := hb.latched (.refl _)
  rw [hsnap, latchSnapshot_snap_quiet hquiet] at hgain
  refine ⟨t, exec_pRender hready hnum (renderBlock_ok hvoices ht), fun a => ?_, fun a => ?_, ?_⟩
  · refine (hgain.sameMem (fun c i hi => ?_) a).trans (by rw [hb.mem])
    obtain ⟨hc, -, hi⟩ := hi
    rw [fmul_fZero _ hfin hsign, hb.cfg]
    exact hread c i (hnchan ▸ hc) hi
  · rw [hgain.mem_other (by decide), hb.mem]
  · rw [hgain.voices]
    exact hinactive

end Sys2Proof.Machine

/-! ## The error record -/

namespace Sys2Proof.Machine

/-- Settles O51: `raise` at each of the five errors of rule R281, field by field. -/
theorem raiseWritesTheRecord : Obligations.RaiseWritesTheRecord :=
  fun _ => ⟨rfl, rfl, rfl, rfl, rfl⟩

theorem SameRecord.refl (s : State) : SameRecord s s := ⟨rfl, rfl, rfl, rfl, rfl⟩

theorem SameRecord.trans {s t u : State} (h : SameRecord s t) (k : SameRecord t u) : SameRecord s u := by
  obtain ⟨hcmd, hbusy, herr, hcause, herrcmd⟩ := h
  obtain ⟨kcmd, kbusy, kerr, kcause, kerrcmd⟩ := k
  exact ⟨kcmd.trans hcmd, kbusy.trans hbusy, kerr.trans herr, kcause.trans hcause, kerrcmd.trans herrcmd⟩

/-! ### What leaves the record alone -/

theorem RenderFrame.record {s t : State} (h : RenderFrame s t) : SameRecord s t := h.host.1

theorem NotesFrame.record {s t : State} (h : NotesFrame s t) : SameRecord s t := by
  rw [h.rest]
  exact .refl s

theorem LatchFrame.record {s t : State} (h : LatchFrame s t) : SameRecord s t := by
  rw [h.others]
  exact .refl s

theorem applySnapshot_record (s : State) : SameRecord s (applySnapshot s) :=
  eachUp_keeps (SameRecord s) _ _ _ s (fun _ _ _ _ ht => ht) (.refl s)

theorem dispatchEvents_record (m : Fp) (s : State) : SameRecord s (dispatchEvents m s) :=
  (NotesFrame.dispatchList m 0 s.events { s with events := [] }).record

theorem atRender_record (m : Fp) (s : State) : SameRecord s (s.atRender m) :=
  ((latchSnapshot_latchFrame s).record.trans (applySnapshot_record _)).trans (dispatchEvents_record _ _)

theorem preparePool_record (m : Fp) (sr : F32) (mb nc : Word) (s : State) :
    SameRecord s (preparePool m sr mb nc s) :=
  eachUp_keeps (SameRecord s) _ _ _ _ (fun _ _ _ _ ht => ht) (.refl s)

/-! ### One error, or none -/

/-- If the command answers a next state, that is `s` with one error raised, or the record is as in `s` there
(rules R282, R284). -/
def RaisesOrKeepsRecord (s : State) (o : Out) : Prop :=
  ∀ t, o = .next t → (∃ e, t = raise e s) ∨ SameRecord s t

namespace RaisesOrKeepsRecord

variable {s : State}

theorem next {t : State} (h : SameRecord s t) : RaisesOrKeepsRecord s (.next t) := by
  rintro _ ⟨⟩
  exact .inr h

theorem raised (e : CmdError) : RaisesOrKeepsRecord s (raised e s) := by
  rintro _ ⟨⟩
  exact .inl ⟨e, rfl⟩

theorem onVoice {v : BitVec 8} {body : Nat → Out} (h : RaisesOrKeepsRecord s (body v.toNat)) :
    RaisesOrKeepsRecord s (onVoice v s body) :=
  onVoice_satisfies (RaisesOrKeepsRecord s) (.raised .badOperand) h

theorem ite {b : Prop} [Decidable b] {x y : Out} (hx : RaisesOrKeepsRecord s x) (hy : RaisesOrKeepsRecord s y) :
    RaisesOrKeepsRecord s (if b then x else y) := by
  split
  · exact hx
  · exact hy

theorem updVoice (v : BitVec 8) (f : Voice → Voice) : RaisesOrKeepsRecord s (updVoice v s f) :=
  .onVoice (.next ⟨rfl, rfl, rfl, rfl, rfl⟩)

theorem queryVoice (v : BitVec 8) (f : Voice → Word) : RaisesOrKeepsRecord s (queryVoice v s f) :=
  .onVoice (.next ⟨rfl, rfl, rfl, rfl, rfl⟩)

/-- The rendering commands raise nothing past their guards. -/
theorem of_runs {u : State} {fits : Prop} {r : Except Fault State} (h : Runs fits (RenderFrame u) u r)
    (hu : SameRecord s u) : RaisesOrKeepsRecord s (finish r) := fun t ht =>
  .inr (hu.trans (h.ok ((finish_next_iff r t).1 ht)).record)

end RaisesOrKeepsRecord

/-- An error is raised by a guard, before the command has written anything (rule R284). -/
theorem exec_raisesOrKeepsRecord (i : Instr) (s : State) (hi : i ≠ .sysReset) :
    RaisesOrKeepsRecord s (exec i s) := by
  unfold exec
  cases i with
  | sysReset => exact absurd rfl hi
  | oscSetwave v wsel =>
    refine .onVoice ?_
    cases waveOfSel wsel with
    | none => exact .raised _
    | some w => exact .next ⟨rfl, rfl, rfl, rfl, rfl⟩
  | fltPrepare v | vPrepare v => exact .onVoice (.ite (.next ⟨rfl, rfl, rfl, rfl, rfl⟩) (.raised _))
  | fltProcess v =>
    exact .onVoice (.ite (.raised _) (.ite (.raised _) (.of_runs (fltProcess_runs _ _ _ _ s) (.refl s))))
  | vRender v =>
    exact .onVoice (.ite (.raised _) (.ite (.raised _) (.of_runs (renderVoice_runs _ _ _ _ s) (.refl s))))
  | pPrepare => exact .ite (.next (preparePool_record _ _ _ _ s)) (.raised _)
  | pNoteon note => exact .next (NotesFrame.allocNoteOn _ note s).record
  | pNoteoff note tail => exact .next (NotesFrame.routeNoteOff note tail s).record
  | pRender =>
    exact .ite (.raised _) (.ite (.raised _) (.of_runs (renderBlock_runs _ _ s) (atRender_record _ s)))
  | pEvent kind note tail => exact .ite (.raised _) (.next ⟨rfl, rfl, rfl, rfl, rfl⟩)
  | oscNext v | envNext v | vStart v _ | vStop v _ => exact .onVoice (.next ⟨rfl, rfl, rfl, rfl, rfl⟩)
  | envIsactive v | envGetlevel v | envGetstage v | vQuery v => exact .queryVoice _ _
  | _ => exact .updVoice _ _

/-- Settles O52, from `exec_raisesOrKeepsRecord`. -/
theorem errorsAreAllOrNothing : Obligations.ErrorsAreAllOrNothing :=
  fun i s t h hi => exec_raisesOrKeepsRecord i s hi t h

end Sys2Proof.Machine

/-! ## The host while a command runs -/

namespace Sys2Proof.Machine

@[simp] theorem paramIndex_param (k : Fin 8) : paramIndex (16 + k.val) = some k := by
  have hk : 16 ≤ 16 + k.val ∧ 16 + k.val < 24 := by omega
  simp [paramIndex, hk]

/-- A write of a register that is no parameter is withheld while a command runs (rule R313). -/
theorem step_regWrite_busy {s : State} {n : Nat} {w : Word} {rest : List Move} (hb : s.busy = true) (hn : n < 32)
    (hp : n < 16 ∨ 24 ≤ n) (h : s.moves = .host (.regWrite n w) :: rest) :
    step s = .refused .hostMoveWhileBusy := by
  simp [step_host h, hostTxn, hostRegWrite, hn, paramIndex_eq_none hp, hb]

/-- A parameter register is written at any time (rule R66). -/
theorem step_regWrite_param {s : State} {k : Fin 8} {w : Word} {rest : List Move}
    (h : s.moves = .host (.regWrite (16 + k.val) w) :: rest) :
    step s = .next { s with params := s.params.set k w, moves := rest } := by
  have hn : 16 + k.val < 32 := by omega
  simp [step_host h, hostTxn, hostRegWrite, hn]

theorem step_memWrite_busy {s : State} {sp : Space} {c i : Nat} {w : Word} {rest : List Move} (hb : s.busy = true)
    (h : s.moves = .host (.memWrite sp c i w) :: rest) : step s = .refused .hostMoveWhileBusy := by
  simp [step_host h, hostTxn, hostMemWrite, hb]

theorem step_memRead_busy {s : State} {sp : Space} {c i : Nat} {rest : List Move} (hb : s.busy = true)
    (h : s.moves = .host (.memRead sp c i) :: rest) : step s = .refused .hostMoveWhileBusy := by
  simp [step_host h, hostTxn, hostMemRead, hb]

/-- Settles O8, one kind of transaction at a time. -/
theorem hostMovesWhileBusy : Obligations.HostMovesWhileBusy := by
  refine ⟨fun s n w rest hb hn hp h => ?_, fun s sp c i w rest hb h => ?_, fun s k w rest h => ?_,
    fun s n rest hn h => ?_⟩
  · exact step_regWrite_busy hb hn (by omega) h
  · obtain h | h := h
    · exact step_memWrite_busy hb h
    · exact step_memRead_busy hb h
  · exact step_regWrite_param h
  · exact ⟨_, step_regRead hn h⟩

end Sys2Proof.Machine

/-! ## What the answer of a command satisfies -/

namespace Sys2Proof.Machine

/-- If the command or the move answers a next state, that state satisfies `P`. -/
def Answers (P : State → Prop) (o : Out) : Prop := ∀ t, o = .next t → P t

namespace Answers

variable {P : State → Prop} {s t : State}

theorem next (h : P t) : Answers P (.next t) := by
  rintro _ ⟨⟩
  exact h

theorem fault (e : Fault) : Answers P (.fault e) := fun _ h => by cases h

theorem refused (e : Refusal) : Answers P (.refused e) := fun _ h => by cases h

theorem finish {r : Except Fault State} (h : ∀ t, r = .ok t → P t) : Answers P (finish r) :=
  fun t ht => h t ((finish_next_iff r t).1 ht)

theorem ite {b : Prop} [Decidable b] {x y : Out} (hx : b → Answers P x) (hy : ¬ b → Answers P y) :
    Answers P (if b then x else y) := by
  split
  · exact hx ‹_›
  · exact hy ‹_›

theorem onVoice {v : BitVec 8} {body : Nat → Out} (hmissing : P (raise .badOperand s))
    (h : Answers P (body v.toNat)) : Answers P (onVoice v s body) :=
  onVoice_satisfies (Answers P) (.next hmissing) h

theorem updVoice {v : BitVec 8} {f : Voice → Voice} (hmissing : P (raise .badOperand s))
    (h : P (s.setVoice v.toNat (f (s.voice v.toNat)))) : Answers P (updVoice v s f) :=
  .onVoice hmissing (.next h)

theorem queryVoice {v : BitVec 8} {f : Voice → Word} (hmissing : P (raise .badOperand s))
    (h : P (s.setR0 (f (s.voice v.toNat)))) : Answers P (queryVoice v s f) :=
  .onVoice hmissing (.next h)

end Answers

end Sys2Proof.Machine

/-! ## Every step keeps the machine invariant

The error record, the registers, the parameters and the model's own fields are no part of the invariant: where only those
change, the invariant of the state before is, by definition, the invariant of the state after. -/

namespace Sys2Proof.Machine

/-! ### The Voice -/

theorem Flt.wf_iff (c : Config) (f : Flt) :
    f.wf c = true ↔ f.s1.length = c.capChan ∧ f.s2.length = c.capChan
      ∧ f.maxblock.toNat ≤ c.capBlock ∧ f.nchan.toNat ≤ c.capChan
      ∧ (f.prepared = true → 1 ≤ f.maxblock.toNat ∧ 1 ≤ f.nchan.toNat) := by
  simp only [Flt.wf, Bool.and_eq_true, Bool.or_eq_true, decide_eq_true_eq, Bool.not_eq_true', and_assoc,
    ← Bool.not_eq_true, ← imp_iff_not_or]

theorem Voice.wf_iff (c : Config) (x : Voice) :
    x.wf c = true ↔ x.flt.wf c = true ∧ x.active = x.note.isSome ∧ (x.ready = true → x.flt.prepared = true) := by
  simp only [Voice.wf, Bool.and_eq_true, Bool.or_eq_true, beq_iff_eq, Bool.not_eq_true', and_assoc,
    ← Bool.not_eq_true, ← imp_iff_not_or]

theorem prepareArgsOk_sizes {c : Config} {sr : F32} {mb nc : Word} (h : prepareArgsOk c sr mb nc = true) :
    (1 ≤ mb.toNat ∧ mb.toNat ≤ c.capBlock) ∧ 1 ≤ nc.toNat ∧ nc.toNat ≤ c.capChan := by
  simp only [prepareArgsOk, Bool.and_eq_true, decide_eq_true_eq] at h
  obtain ⟨⟨⟨⟨-, hmb⟩, hmb'⟩, hnc⟩, hnc'⟩ := h
  exact ⟨⟨hmb, hmb'⟩, hnc, hnc'⟩

variable {c : Config} {x : Voice}

theorem Voice.wf_states {a b : List F32} (h : x.wf c = true) (ha : a.length = c.capChan) (hb : b.length = c.capChan) :
    ({ x with flt := { x.flt with s1 := a, s2 := b } } : Voice).wf c = true := by
  obtain ⟨hflt, hrest⟩ := (Voice.wf_iff c x).1 h
  obtain ⟨-, -, hsizes⟩ := (Flt.wf_iff c x.flt).1 hflt
  exact (Voice.wf_iff c _).2 ⟨(Flt.wf_iff c _).2 ⟨ha, hb, hsizes⟩, hrest⟩

theorem Voice.wf_fltReset (h : x.wf c = true) : ({ x with flt := fltReset c x.flt } : Voice).wf c = true :=
  Voice.wf_states h List.length_replicate List.length_replicate

theorem fltPrepare_wf {sr : F32} {mb nc : Word} (h : prepareArgsOk c sr mb nc = true) (f : Flt) :
    (fltPrepare c sr mb nc f).wf c = true := by
  obtain ⟨⟨hmb, hmb'⟩, hnc, hnc'⟩ := prepareArgsOk_sizes h
  exact (Flt.wf_iff c _).2 ⟨List.length_replicate, List.length_replicate, hmb', hnc', fun _ => ⟨hmb, hnc⟩⟩

/-- Preparing the filter makes every ready flag right, whatever it was (rules R200, R227). -/
theorem Voice.wf_prepared {y : Voice} {sr : F32} {mb nc : Word} (h : x.wf c = true)
    (hok : prepareArgsOk c sr mb nc = true) (hflt : y.flt = fltPrepare c sr mb nc x.flt)
    (hactive : y.active = x.active) (hnote : y.note = x.note) : y.wf c = true := by
  obtain ⟨-, hnoted, -⟩ := (Voice.wf_iff c x).1 h
  refine (Voice.wf_iff c y).2 ⟨hflt ▸ fltPrepare_wf hok x.flt, by rw [hactive, hnote, hnoted], fun _ => by rw [hflt]; rfl⟩

theorem Voice.wf_started (m : Fp) (n : BitVec 7) (ts : BitVec 64) (h : x.wf c = true) :
    (x.started c m n ts).wf c = true := by
  obtain ⟨hflt, -, hready⟩ := (Voice.wf_iff c x).1 h
  exact (Voice.wf_iff c _).2 ⟨hflt, rfl, hready⟩

theorem Voice.wf_cleared (h : x.wf c = true) : x.cleared.wf c = true := by
  obtain ⟨hflt, -, hready⟩ := (Voice.wf_iff c x).1 h
  exact (Voice.wf_iff c _).2 ⟨hflt, rfl, hready⟩

theorem Voice.wf_stopped (tail : Bool) (h : x.wf c = true) : (x.stopped tail).wf c = true := by
  unfold Voice.stopped
  simp only
  split
  · exact Voice.wf_cleared h
  · exact h

/-- What rendering may do to a Voice keeps it well formed. -/
theorem Voice.Rendered.wf {y : Voice} (h : Voice.Rendered x y) (hx : x.wf c = true) : y.wf c = true := by
  obtain ⟨hflt, hnoted, hready⟩ := (Voice.wf_iff c x).1 hx
  obtain ⟨hs1, hs2, -⟩ := (Flt.wf_iff c x.flt).1 hflt
  obtain ⟨a, b, hf, ha, hb⟩ := h.flt
  obtain ⟨hflt', -⟩ := (Voice.wf_iff c _).1 (Voice.wf_states hx (ha.trans hs1) (hb.trans hs2))
  refine (Voice.wf_iff c y).2 ⟨hf ▸ hflt', ?_, fun hr => ?_⟩
  · rcases h.note with ⟨hactive, hnote⟩ | ⟨hactive, hnote⟩
    · rw [hactive, hnote, hnoted]
    · rw [hactive, hnote]
      rfl
  · rw [hf]
    exact hready (h.ready ▸ hr)

/-! ### The state -/

variable {s t : State}

/-- Setting a Voice keeps the invariant, if the Voice is well formed and a ready Voice stays ready. -/
theorem setVoice_inv (h : s.Inv) (v : Nat) {x : Voice} (hx : x.wf s.cfg = true)
    (hready : (s.voice v).ready = true → x.ready = true) : (s.setVoice v x).Inv := by
  have heach : EachVoice (fun y z => y.ready = true → z.ready = true) s (s.setVoice v x) :=
    .setVoice (fun _ => id) v x hready
  obtain ⟨hcfg, hlen, hvoices, hpool, hr, hrest⟩ := (State.inv_iff s).1 h
  refine (State.inv_iff _).2 ⟨hcfg, by simpa using hlen, fun y hy => ?_, hpool, fun hp y hy => ?_, hrest⟩
  · rcases List.mem_or_eq_of_mem_set hy with hy | rfl
    · exact hvoices y hy
    · exact hx
  · obtain ⟨z, hz, hzy⟩ := heach.of_mem hy
    exact hzy (hr hp z hz)

theorem setVoice_rendered_inv (h : s.Inv) (v : Nat) {x : Voice} (hx : Voice.Rendered (s.voice v) x) :
    (s.setVoice v x).Inv :=
  setVoice_inv h v (hx.wf (h.voice_wf v)) fun hr => hx.ready.trans hr

theorem memWrite_inv {sp : Space} {c i : Nat} {w : F32} (h : s.Inv) (hw : memWrite sp c i w s = .ok t) : t.Inv := by
  obtain ⟨he, rfl⟩ := (memWrite_ok_iff sp c i w s t).1 hw
  have ha := sampleAddr_lt s.cfg c i he
  obtain ⟨hcfg, hlen, hvoices, hpool, hr, hevents, ⟨hdest, hdest'⟩, hscr, hscr'⟩ := (State.inv_iff s).1 h
  cases sp with
  | dest =>
    exact (State.inv_iff _).2 ⟨hcfg, hlen, hvoices, hpool, hr, hevents,
      ⟨Memory.write_wf _ _ w hdest, Memory.write_within _ _ _ w hdest' ha⟩, hscr, hscr'⟩
  | scr =>
    exact (State.inv_iff _).2 ⟨hcfg, hlen, hvoices, hpool, hr, hevents, ⟨hdest, hdest'⟩,
      Memory.write_wf _ _ w hscr, Memory.write_within _ _ _ w hscr' ha⟩

theorem memUpdate_inv {sp : Space} {c i : Nat} {f : F32 → F32} (h : s.Inv) (hu : memUpdate sp c i f s = .ok t) :
    t.Inv := by
  obtain ⟨x, -, hw⟩ := (memUpdate_ok_iff sp c i f s t).1 hu
  exact memWrite_inv h hw

/-- The counter of note starts is no part of the invariant. -/
theorem startNote_inv (m : Fp) (v : Nat) (n : BitVec 7) (h : s.Inv) : (startNote m v n s).Inv := by
  have hv : (s.setVoice v ((s.voice v).started s.cfg m n s.pool.tsctr)).Inv :=
    setVoice_inv h v (Voice.wf_started m n _ (h.voice_wf v)) id
  exact hv

theorem clearVoice_inv (v : Nat) (h : s.Inv) : (clearVoice v s).Inv :=
  setVoice_inv h v (Voice.wf_cleared (h.voice_wf v)) id

theorem stopNote_inv (tail : Bool) (v : Nat) (h : s.Inv) : (stopNote tail v s).Inv :=
  setVoice_inv h v (Voice.wf_stopped tail (h.voice_wf v)) (Voice.kept_stopped s.cfg tail _).ready

/-- Only the parameters, the snapshot and the writes still to land change: none is part of the invariant. -/
theorem LatchFrame.inv (h : LatchFrame s t) (hs : s.Inv) : t.Inv := by
  rw [h.others]
  exact hs

/-- An empty queue is not over-full. -/
theorem clearEvents_inv (h : s.Inv) : ({ s with events := [] } : State).Inv := by
  obtain ⟨hcfg, hlen, hvoices, hpool, hr, -, hmem⟩ := (State.inv_iff s).1 h
  exact (State.inv_iff _).2 ⟨hcfg, hlen, hvoices, hpool, hr, Nat.zero_le _, hmem⟩

/-! ### The pool's operations -/

theorem allocNoteOn_inv (m : Fp) (n : BitVec 7) (h : s.Inv) : (allocNoteOn m n s).Inv := by
  unfold allocNoteOn
  split
  · exact startNote_inv m _ n h
  · split
    · exact startNote_inv m _ n h
    · exact startNote_inv m _ n (clearVoice_inv _ h)

theorem routeNoteOff_inv (n : BitVec 7) (tail : Bool) (h : s.Inv) : (routeNoteOff n tail s).Inv := by
  unfold routeNoteOff
  split
  · exact stopNote_inv tail _ h
  · exact h

theorem dispatchEvent_inv (m : Fp) (e : EventRec) (h : s.Inv) : (dispatchEvent m e s).Inv := by
  unfold dispatchEvent
  split
  · exact allocNoteOn_inv m _ h
  · exact routeNoteOff_inv _ _ h

theorem dispatchList_inv (m : Fp) (i : Nat) (l : List EventRec) (h : s.Inv) : (dispatchList m i l s).Inv := by
  induction l generalizing i s with
  | nil => exact h
  | cons e l ih => exact ih (i + 1) (dispatchEvent_inv _ e h)

theorem applySnapshot_inv (h : s.Inv) : (applySnapshot s).Inv :=
  eachUp_keeps State.Inv _ _ _ s
    (fun v u _ _ hu => setVoice_inv hu v (x := (u.voice v).applyParams u.cfg u.snap) (hu.voice_wf v) id) h

theorem atRender_inv (m : Fp) (h : s.Inv) : (s.atRender m).Inv :=
  dispatchList_inv _ 0 _ (clearEvents_inv (applySnapshot_inv ((latchSnapshot_latchFrame s).inv h)))

/-- When every Voice was updated, each is the update of one. -/
theorem VoicesUpdated.exists_of_mem {F : Nat → Voice → Voice} (h : VoicesUpdated F s s.voices.length t) {y : Voice}
    (hy : y ∈ t.voices) : ∃ v, y = F v (s.voice v) := by
  obtain ⟨v, hv, rfl⟩ := List.getElem_of_mem hy
  refine ⟨v, ?_⟩
  rw [← h.done v (h.length ▸ hv), State.voice, List.getD_eq_getElem _ _ hv]

/-- Preparing the pool makes it ready and with it every Voice (rule R250). -/
theorem preparePool_inv (m : Fp) {sr : F32} {mb nc : Word} (h : s.Inv) (hok : prepareArgsOk s.cfg sr mb nc = true) :
    (preparePool m sr mb nc s).Inv := by
  obtain ⟨hcfg, hlen, -, -, -, hrest⟩ := (State.inv_iff s).1 h
  obtain ⟨u, hu, hprepared⟩ := preparePool_eq m sr mb nc hlen
  obtain ⟨⟨hmb, hmb'⟩, hnc, hnc'⟩ := prepareArgsOk_sizes hok
  have hvoice : ∀ y ∈ u.voices, y.wf s.cfg = true ∧ y.ready = true := by
    intro y hy
    rw [← hlen] at hu
    obtain ⟨v, rfl⟩ := hu.exists_of_mem hy
    exact ⟨Voice.wf_prepared (h.voice_wf v) hok rfl rfl rfl, rfl⟩
  rw [hprepared, hu.rest]
  refine (State.inv_iff _).2
    ⟨hcfg, hu.length.trans hlen, fun y hy => (hvoice y hy).1, ?_, fun _ y hy => (hvoice y hy).2, hrest⟩
  simp [Pool.wf, hmb, hmb', hnc, hnc']

/-! ### Rendering -/

theorem forUp_inv {f : Nat → State → Except Fault State} {start n : Nat}
    (hf : ∀ i {u u' : State}, u.Inv → f i u = .ok u' → u'.Inv) (hs : s.Inv) (h : forUp start n f s = .ok t) : t.Inv :=
  forUp_keeps State.Inv f n start s t (fun i _ _ _ _ => hf i) hs h

theorem forRegion_inv {f : Nat → Nat → State → Except Fault State} {nc start num : Nat}
    (hf : ∀ c i {u u' : State}, u.Inv → f c i u = .ok u' → u'.Inv) (hs : s.Inv)
    (h : forUp 0 nc (fun c => forUp start num (f c)) s = .ok t) : t.Inv :=
  forUp_inv (fun c _ _ hu => forUp_inv (hf c) hu) hs h

theorem fltElement_inv {m : Fp} {k : Coef} {v ch i : Nat} (hs : s.Inv) (h : fltElement m k v ch i s = .ok t) :
    t.Inv := by
  obtain ⟨x, u, -, hw, rfl⟩ := (fltElement_ok_iff m k v ch i s t).1 h
  obtain ⟨-, hu⟩ := (memWrite_ok_iff _ _ _ _ _ _).1 hw
  refine setVoice_rendered_inv (memWrite_inv hs hw) v ?_
  rw [hu, State.voice_setMem]
  exact ⟨⟨_, rfl⟩, ⟨_, _, rfl, List.length_set, List.length_set⟩, rfl, rfl, .inl ⟨rfl, rfl⟩⟩

theorem fltProcess_inv {m : Fp} {v start num : Nat} (hs : s.Inv) (h : fltProcess m v start num s = .ok t) : t.Inv :=
  forRegion_inv (fun _ _ _ _ => fltElement_inv) hs h

theorem renderSamples_inv {m : Fp} {v nc n i w w' : Nat} (hs : s.Inv)
    (h : renderSamples m v nc n i w s = .ok (w', t)) : t.Inv := by
  induction n generalizing i w s with
  | zero =>
    cases h
    exact hs
  | succ n ih =>
    simp only [renderSamples] at h
    split at h
    · cases h
    · next u hu =>
      have hpulled := setVoice_rendered_inv hs v
        (Voice.rendered_pulled s.cfg ((m.sub i).sub 0) ((m.sub i).sub 1) (s.voice v))
      have huinv := forUp_inv (fun _ _ _ => memUpdate_inv) hpulled hu
      split at h
      · exact ih huinv h
      · cases h
        exact clearVoice_inv v huinv

theorem mixElement_inv {m : Fp} {c i : Nat} (hs : s.Inv) (h : mixElement m c i s = .ok t) : t.Inv := by
  obtain ⟨y, x, -, -, hw⟩ := (mixElement_ok_iff m c i s t).1 h
  exact memWrite_inv hs hw

theorem renderVoice_inv {m : Fp} {v start num : Nat} (hs : s.Inv) (h : renderVoice m v start num s = .ok t) :
    t.Inv := by
  unfold renderVoice at h
  split at h
  · simp only at h
    split at h
    · cases h
    · next s1 h1 =>
      have hcleared := forRegion_inv (fun _ _ _ _ => memWrite_inv) hs h1
      split at h
      · cases h
      · next w s2 h2 =>
        have hsounded := renderSamples_inv hcleared h2
        split at h
        · cases h
        · next s3 h3 =>
          have hfiltered := fltProcess_inv hsounded h3
          exact forRegion_inv (fun _ _ _ _ => mixElement_inv) hfiltered h
  · cases h
    exact hs

theorem renderIfReady_inv {m : Fp} {num v : Nat} (hs : s.Inv) (h : renderIfReady m num v s = .ok t) : t.Inv := by
  unfold renderIfReady at h
  split at h
  · exact renderVoice_inv hs h
  · cases h
    exact hs

theorem renderBlock_inv {m : Fp} {num : Nat} (hs : s.Inv) (h : renderBlock m num s = .ok t) : t.Inv := by
  unfold renderBlock at h
  simp only at h
  split at h
  · next s2 h2 =>
    have hrendered := forUp_inv (fun _ _ _ => renderIfReady_inv) (atRender_inv m hs) h2
    exact forRegion_inv (fun _ _ _ _ => memUpdate_inv) hrendered h
  · cases h

/-! ### Commands, moves and steps -/

theorem toReset_inv (h : s.Inv) (w : Word) : (s.toReset w).Inv := by
  obtain ⟨hcfg, -⟩ := (State.inv_iff s).1 h
  exact resetOf_inv hcfg

theorem exec_inv (i : Instr) (hs : s.Inv) : Answers State.Inv (exec i s) := by
  have hraise : ∀ e, (raise e s).Inv := fun _ => hs
  have hkeep : ∀ {v : Nat} {x : Voice}, x.wf s.cfg = true → x.ready = (s.voice v).ready → (s.setVoice v x).Inv :=
    fun hx hr => setVoice_inv hs _ hx hr.trans
  have hwf := hs.voice_wf
  unfold exec
  cases i with
  | sysReset => exact .next (toReset_inv hs _)
  | oscSetwave v wsel =>
    refine .onVoice (hraise _) ?_
    cases waveOfSel wsel with
    | none => exact .next (hraise _)
    | some w => exact .next (hkeep (hwf _) rfl)
  | oscNext v | envNext v => exact .onVoice (hraise _) (.next (hkeep (hwf _) rfl))
  | fltReset v => exact .updVoice (hraise _) (hkeep (Voice.wf_fltReset (hwf _)) rfl)
  | fltPrepare v =>
    exact .onVoice (hraise _) (.ite (fun hok => .next (hkeep (Voice.wf_prepared (hwf _) hok rfl rfl rfl) rfl))
      fun _ => .next (hraise _))
  | vPrepare v =>
    exact .onVoice (hraise _) (.ite
      (fun hok => .next (setVoice_inv hs _ (Voice.wf_prepared (hwf _) hok rfl rfl rfl) fun _ => rfl))
      fun _ => .next (hraise _))
  | fltProcess v =>
    exact .onVoice (hraise _) (.ite (fun _ => .next (hraise _)) fun _ => .ite (fun _ => .next (hraise _)) fun _ =>
      .finish fun _ => fltProcess_inv hs)
  | vRender v =>
    exact .onVoice (hraise _) (.ite (fun _ => .next (hraise _)) fun _ => .ite (fun _ => .next (hraise _)) fun _ =>
      .finish fun _ => renderVoice_inv hs)
  | vStart v n => exact .onVoice (hraise _) (.next (startNote_inv _ _ n hs))
  | vStop v tail => exact .onVoice (hraise _) (.next (stopNote_inv tail _ hs))
  | envIsactive v | envGetlevel v | envGetstage v | vQuery v => exact .queryVoice (hraise _) hs
  | pPrepare => exact .ite (fun hok => .next (preparePool_inv _ hs hok)) fun _ => .next (hraise _)
  | pNoteon n => exact .next (allocNoteOn_inv _ n hs)
  | pNoteoff n tail => exact .next (routeNoteOff_inv n tail hs)
  | pRender =>
    exact .ite (fun _ => .next (hraise _)) fun _ => .ite (fun _ => .next (hraise _)) fun _ =>
      .finish fun _ => renderBlock_inv hs
  | pEvent kind n tail =>
    refine .ite (fun _ => .next (hraise _)) fun hroom => .next ?_
    obtain ⟨hcfg, hlen, hvoices, hpool, hr, -, hmem⟩ := (State.inv_iff s).1 hs
    exact (State.inv_iff _).2 ⟨hcfg, hlen, hvoices, hpool, hr, by simpa using hroom, hmem⟩
  | _ => exact .updVoice (hraise _) (hkeep (hwf _) rfl)

theorem completeCommand_inv (hs : s.Inv) : (completeCommand s).Inv := by
  have h := (landRest_latchFrame s).inv hs
  unfold completeCommand
  generalize landRest s = u at h
  exact h

/-- An engine move runs the command that `CMD` spells, records an illegal word, or lands parameter writes. -/
theorem engineMove_inv (during : List CtlWrite) (hs : s.Inv) : Answers State.Inv (engineMove during s) := by
  refine .ite (fun _ t ht => ?_) fun _ => .next ((landRest_latchFrame _).inv hs)
  obtain ⟨u, hu, rfl⟩ := complete_next ht
  refine completeCommand_inv ?_
  unfold runCommand at hu
  split at hu
  · exact exec_inv _ (s := { s with during := during }) hs u hu
  · cases hu
    exact hs

theorem regWriteIdle_inv (n : Nat) (w : Word) (hs : s.Inv) : (regWriteIdle n w s).Inv := by
  unfold regWriteIdle
  split <;> exact hs

theorem hostTxn_inv (x : HostTxn) (hs : s.Inv) : Answers State.Inv (hostTxn x s) := by
  cases x with
  | regWrite n w =>
    refine .ite (fun _ => ?_) fun _ => .refused _
    split
    · exact .next hs
    · exact .ite (fun _ => .refused _) fun _ => .next (regWriteIdle_inv n w hs)
  | regRead n => exact .ite (fun _ => .next hs) fun _ => .refused _
  | memWrite sp c i w =>
    exact .ite (fun _ => .refused _) fun _ => .ite (fun _ => .finish fun _ => memWrite_inv hs) fun _ => .refused _
  | memRead sp c i =>
    refine .ite (fun _ => .refused _) fun _ => .ite (fun _ => ?_) fun _ => .refused _
    split
    · exact .next hs
    · exact .fault _

/-- Settles O55, by the kind of move; the commands are `exec_inv`. -/
theorem stepKeepsInvariant : Obligations.StepKeepsInvariant := by
  intro s t hs h
  have hmoved : ∀ rest, ({ s with moves := rest } : State).Inv := fun _ => hs
  unfold step at h
  split at h
  · exact hostTxn_inv _ (hmoved _) t h
  · exact engineMove_inv _ (hmoved _) t h
  · cases h
    exact toReset_inv hs 0#32
  · split at h
    · exact engineMove_inv [] hs t h
    · cases h
      exact hs

end Sys2Proof.Machine

/-! ## The commands of a unit -/

namespace Sys2Proof.Machine

/-! ### One Voice -/

/-- From `s` to `t` only Voice `v` and `R0` can have changed. -/
structure ActsInside (v : Nat) (s t : State) : Prop where
  outside : SameOutsideVoices s t
  others  : SameVoicesBut v s t

theorem ActsInside.of_voiceFrame {v : Nat} {s t : State} (h : VoiceFrame v s t) (hmem : ∀ sp, t.mem sp = s.mem sp) :
    ActsInside v s t :=
  ⟨⟨h.host, h.pool, h.events, fun a => by rw [hmem], fun a => by rw [hmem]⟩, h.others⟩

theorem ActsInside.refl (v : Nat) (s : State) : ActsInside v s s := .of_voiceFrame (.refl v s) fun _ => rfl

theorem ActsInside.setVoice (s : State) (v : Nat) (x : Voice) : ActsInside v s (s.setVoice v x) :=
  .of_voiceFrame (setVoice_frame v s x) (State.mem_setVoice s v x)

theorem ActsInside.setR0 {v : Nat} {s t : State} (h : ActsInside v s t) (w : Word) : ActsInside v s (t.setR0 w) :=
  ⟨h.outside, h.others⟩

/-- Of the commands that name a Voice only `V.START`, which moves the counter, and the two that use the sample memories
act outside it. -/
theorem exec_actsInside {i : Instr} {v : BitVec 8} (hi : i.voice? = some v) (hmem : i.usesMemory = false)
    (hstart : ∀ n, i ≠ .vStart v n) (s : State) :
    Answers (fun t => t = raise .badOperand s ∨ ActsInside v.toNat s t) (exec i s) := by
  unfold exec
  cases i with
  | sysReset | pPrepare | pNoteon _ | pNoteoff _ _ | pRender | pEvent _ _ _ => cases hi
  | fltProcess _ | vRender _ => cases hmem
  | vStart u n =>
    cases hi
    exact absurd rfl (hstart n)
  | oscSetwave u wsel =>
    cases hi
    refine .onVoice (.inl rfl) ?_
    cases waveOfSel wsel with
    | none => exact .next (.inl rfl)
    | some w => exact .next (.inr (.setVoice s _ _))
  | oscNext u | envNext u =>
    cases hi
    exact .onVoice (.inl rfl) (.next (.inr ((ActsInside.setVoice s _ _).setR0 _)))
  | fltPrepare u | vPrepare u =>
    cases hi
    exact .onVoice (.inl rfl) (.ite (fun _ => .next (.inr (.setVoice s _ _))) fun _ => .next (.inl rfl))
  | vStop u tail =>
    cases hi
    exact .onVoice (.inl rfl) (.next (.inr (.setVoice s _ _)))
  | envIsactive u | envGetlevel u | envGetstage u | vQuery u =>
    cases hi
    exact .queryVoice (.inl rfl) (.inr ((ActsInside.refl _ s).setR0 _))
  | _ =>
    cases hi
    exact .updVoice (.inl rfl) (.inr (.setVoice s _ _))

/-- Settles O49, from `exec_actsInside` and, for `R0`, `exec_keepsR0`. -/
theorem unitCommandsTouchOneVoice : Obligations.UnitCommandsTouchOneVoice := by
  intro s t v wsel widx tail i hi h
  have hunit : i.voice? = some v ∧ i.usesMemory = false ∧ i ≠ .sysReset ∧ ∀ n, i ≠ .vStart v n := by
    simp only [List.mem_cons, List.not_mem_nil, or_false] at hi
    rcases hi with rfl | rfl | rfl | rfl | rfl | rfl | rfl | rfl | rfl | rfl | rfl | rfl | rfl | rfl | rfl | rfl | rfl
      | rfl | rfl <;> exact ⟨rfl, rfl, nofun, nofun⟩
  obtain ⟨hvoice, hmem, hreset, hstart⟩ := hunit
  exact (exec_actsInside hvoice hmem hstart s t h).imp_right fun ht =>
    ⟨ht.outside, ht.others, fun hvalue => exec_keepsR0 i s hreset hvalue t h⟩

/-! ### One unit -/

/-- At most the oscillator of the Voice has changed. -/
def Voice.OnlyOsc (x y : Voice) : Prop := y = { x with osc := y.osc }

/-- At most the envelope of the Voice has changed. -/
def Voice.OnlyEnv (x y : Voice) : Prop := y = { x with env := y.env }

/-- At most the filter of the Voice has changed. -/
def Voice.OnlyFlt (x y : Voice) : Prop := y = { x with flt := y.flt }

theorem Voice.OnlyFlt.trans {x y z : Voice} (h : Voice.OnlyFlt x y) (k : Voice.OnlyFlt y z) : Voice.OnlyFlt x z :=
  Eq.trans k (congrArg (fun w : Voice => { w with flt := z.flt }) h)

/-- `V[v]` of `t` is related to `V[v]` of `s`. -/
def VoiceMoves (R : Voice → Voice → Prop) (v : Nat) (s t : State) : Prop := R (s.voice v) (t.voice v)

/-- A Voice beyond the list is not set and stays the reset Voice: hence the relation must be reflexive. -/
theorem VoiceMoves.setVoice {R : Voice → Voice → Prop} (hR : ∀ x, R x x) {s : State} {v : Nat} {x : Voice}
    (h : R (s.voice v) x) : VoiceMoves R v s (s.setVoice v x) :=
  (EachVoice.setVoice hR v x h).voice hR (State.setVoice_cfg s v x) v

theorem oscCommand_onlyOsc {i : Instr} {v : BitVec 8} {wsel : BitVec 2}
    (hi : i ∈ [.oscSetwave v wsel, .oscSetfreq v, .oscSetsr v, .oscReset v, .oscNext v]) (s : State) :
    Answers (VoiceMoves Voice.OnlyOsc v.toNat s) (exec i s) := by
  have hraise : ∀ e, VoiceMoves Voice.OnlyOsc v.toNat s (raise e s) := fun _ => rfl
  have hset : ∀ o, VoiceMoves Voice.OnlyOsc v.toNat s (s.setVoice v.toNat { s.voice v.toNat with osc := o }) :=
    fun _ => .setVoice (R := Voice.OnlyOsc) (fun _ => rfl) rfl
  simp only [List.mem_cons, List.not_mem_nil, or_false] at hi
  unfold exec
  rcases hi with rfl | rfl | rfl | rfl | rfl
  · refine .onVoice (hraise _) ?_
    cases waveOfSel wsel with
    | none => exact .next (hraise _)
    | some w => exact .next (hset _)
  · exact .updVoice (hraise _) (hset _)
  · exact .updVoice (hraise _) (hset _)
  · exact .updVoice (hraise _) (hset _)
  · exact .onVoice (hraise _) (.next (hset _))

theorem envCommand_onlyEnv {i : Instr} {v : BitVec 8}
    (hi : i ∈ [.envNoteon v, .envNoteoff v, .envNext v, .envSetparams v, .envSetsr v, .envIsactive v, .envGetlevel v,
      .envGetstage v]) (s : State) : Answers (VoiceMoves Voice.OnlyEnv v.toNat s) (exec i s) := by
  have hraise : ∀ e, VoiceMoves Voice.OnlyEnv v.toNat s (raise e s) := fun _ => rfl
  have hvalue : ∀ w, VoiceMoves Voice.OnlyEnv v.toNat s (s.setR0 w) := fun _ => rfl
  have hset : ∀ e, VoiceMoves Voice.OnlyEnv v.toNat s (s.setVoice v.toNat { s.voice v.toNat with env := e }) :=
    fun _ => .setVoice (R := Voice.OnlyEnv) (fun _ => rfl) rfl
  simp only [List.mem_cons, List.not_mem_nil, or_false] at hi
  unfold exec
  rcases hi with rfl | rfl | rfl | rfl | rfl | rfl | rfl | rfl
  · exact .updVoice (hraise _) (hset _)
  · exact .updVoice (hraise _) (hset _)
  · exact .onVoice (hraise _) (.next (hset _))
  · exact .updVoice (hraise _) (hset _)
  · exact .updVoice (hraise _) (hset _)
  · exact .queryVoice (hraise _) (hvalue _)
  · exact .queryVoice (hraise _) (hvalue _)
  · exact .queryVoice (hraise _) (hvalue _)

theorem fltElement_onlyFlt {m : Fp} {k : Coef} {v ch i : Nat} {s t : State} (h : fltElement m k v ch i s = .ok t) :
    VoiceMoves Voice.OnlyFlt v s t := by
  obtain ⟨x, u, -, hw, rfl⟩ := (fltElement_ok_iff m k v ch i s t).1 h
  have hu : u.voice v = s.voice v := by
    obtain ⟨-, rfl⟩ := (memWrite_ok_iff _ _ _ _ _ _).1 hw
    exact State.voice_setMem s _ _ v
  rw [VoiceMoves, ← hu]
  exact VoiceMoves.setVoice (R := Voice.OnlyFlt) (fun _ => rfl) rfl

/-- Each pass of the two loops of `FltProcess` changes at most the filter (rule R204). -/
theorem fltProcess_onlyFlt {m : Fp} {v start num : Nat} {s t : State} (h : fltProcess m v start num s = .ok t) :
    VoiceMoves Voice.OnlyFlt v s t :=
  forUp_keeps (VoiceMoves Voice.OnlyFlt v s) _ _ 0 s t
    (fun _ u u' _ _ hu => forUp_keeps (VoiceMoves Voice.OnlyFlt v s) _ num start u u'
      (fun _ _ _ _ _ hu he => hu.trans (fltElement_onlyFlt he)) hu) rfl h

theorem fltCommand_onlyFlt {i : Instr} {v : BitVec 8}
    (hi : i ∈ [.fltPrepare v, .fltReset v, .fltSetcutoff v, .fltSetres v, .fltProcess v]) (s : State) :
    Answers (VoiceMoves Voice.OnlyFlt v.toNat s) (exec i s) := by
  have hraise : ∀ e, VoiceMoves Voice.OnlyFlt v.toNat s (raise e s) := fun _ => rfl
  have hset : ∀ f, VoiceMoves Voice.OnlyFlt v.toNat s (s.setVoice v.toNat { s.voice v.toNat with flt := f }) :=
    fun _ => .setVoice (R := Voice.OnlyFlt) (fun _ => rfl) rfl
  simp only [List.mem_cons, List.not_mem_nil, or_false] at hi
  unfold exec
  rcases hi with rfl | rfl | rfl | rfl | rfl
  · exact .onVoice (hraise _) (.ite (fun _ => .next (hset _)) fun _ => .next (hraise _))
  · exact .updVoice (hraise _) (hset _)
  · exact .updVoice (hraise _) (hset _)
  · exact .updVoice (hraise _) (hset _)
  · exact .onVoice (hraise _) (.ite (fun _ => .next (hraise _)) fun _ => .ite (fun _ => .next (hraise _)) fun _ =>
      .finish fun _ => fltProcess_onlyFlt)

/-- Settles O50, unit by unit. -/
theorem unitCommandsKeepOtherUnits : Obligations.UnitCommandsKeepOtherUnits := fun s t _ _ _ h =>
  ⟨fun hi => oscCommand_onlyOsc hi s t h, fun hi => envCommand_onlyEnv hi s t h, fun hi => fltCommand_onlyFlt hi s t h⟩

end Sys2Proof.Machine

/-! ## The spec's own words -/

namespace Sys2Proof

/-- Settles O4: ten of the words are the encodings of their commands (`decode_encode`); `decode` is evaluated at the four
that it rejects. -/
theorem specWordsDecode : Obligations.SpecWordsDecode :=
  ⟨decode_encode .sysReset, decode_encode (.oscSetwave 2#8 1#2), decode_encode (.oscSetfreq 3#8),
    decode_encode (.envSetsr 5#8), decode_encode (.fltProcess 0#8), decode_encode (.vStart 0#8 69#7),
    decode_encode (.vStop 0#8 true), decode_encode (.vUpdosc 1#8 7#16), decode_encode (.pNoteoff 69#7 true),
    decode_encode (.pEvent .noteOn 69#7 false), rfl, rfl, rfl, rfl⟩

end Sys2Proof
